-- ==== Sys2Proof/Config.lean ====
section
/-! DEFINITION. The implementation parameters of 00_scope.md R6, with the values this hardware takes.
The widths `IDW`, `MAGW`, `FRACW`, `CSW`, `FLEN` and `OPW` also stand as the literal widths of the types
in `Word`, `Syntax`, `Decode` and `Machine/Quantizer` (one width each, R6); `Tests/Slice0` ties the two together.
`FRAC_ARITH` is `EXACT` (D2): the fraction is computed on exact integers, and no rounding alternative is modelled. -/

namespace Sys2Proof.Config

/-- `NVAL`: float values per frame (source §3, §4.1). -/
abbrev nval : Nat := 4
/-- `ENCLEN`: bytes per EncodedNumber (source §3). -/
abbrev encLen : Nat := 3
/-- `FRAMELEN`: bytes per frame, `1 + NVAL*ENCLEN + 1` (source §3, §6). -/
abbrev frameLen : Nat := 14
/-- `IDW`: width of the identifier (source §3). -/
abbrev idWidth : Nat := 8
/-- `MAGW`: width of the integer magnitude, wrap modulus 65536 (source §3, §4.1). -/
abbrev magWidth : Nat := 16
/-- `FRACW`: width of the fraction field (source §3). -/
abbrev fracWidth : Nat := 7
/-- `SCALE`: the fraction is in units of 1/100 (source §3, §4.1). -/
abbrev scale : Nat := 100
/-- `CSW`: width of the checksum, modulus 256 (source §3, §4.1). -/
abbrev csWidth : Nat := 8
/-- `ACCW`: accumulator width; decided D7, and the result does not depend on it (R142). -/
abbrev accWidth : Nat := 32
/-- `FLEN`: width of a float operand; decided D1 (IEEE 754 binary32). -/
abbrev floatWidth : Nat := 32
/-- `OPW`: width of the operation-select port; decided D4. -/
abbrev opWidth : Nat := 2
/-- `NMAX`: capacity in bytes of the `pkt` operand; decided D6, legal `n` is 1 to `NMAX`. -/
abbrev nMax : Nat := 14

end Sys2Proof.Config
end

