-- ==== Sys2Proof/Word.lean ====
section
/-! DEFINITION. The word types of `float_quantizer_3byte`: a byte, a binary32 operand word, the 3-byte
EncodedNumber, the 14-byte Frame, and the parts of a finite float (30_encoding.md R63, R65, R67). -/

namespace Sys2Proof

/-- A byte is 8 bits, an unsigned value 0 to 255, bit 7 the most significant (R7). -/
abbrev Byte := BitVec 8

/-- A float operand port carries one 32-bit IEEE 754 binary32 word, bit 31 the sign (R21, R63, D1). -/
abbrev Word := BitVec 32

/-- "An ordered, fixed-length sequence of 14 unsigned 8-bit values", by offset (R67). -/
abbrev Frame := Vector Byte 14

/-- The 3-byte quantized representation of one float (R65): byte 0 "high", byte 1 "low", byte 2
"sign+fraction". -/
structure EncodedNumber where
  high : Byte
  low : Byte
  signFrac : Byte
  deriving DecidableEq, Repr

/-- The parts of a FINITE binary32 word: its sign bit `s`, integer significand `sig` and power `x`,
so that its exact value is `(-1)^s * sig * 2^x` (R63). -/
structure FloatParts where
  sign : Bool
  sig : Nat
  x : Int
  deriving DecidableEq, Repr

end Sys2Proof
end

