-- ==== Sys2Proof/Syntax.lean ====
section
/-! DEFINITION. The four operations a host requests (00_scope.md R2; 30_encoding.md R61, R62), each with
the operand values it reads. `debugPrint` has no code point and no constructor (R160). -/

namespace Sys2Proof

/-- One requested operation with the operands it reads (the "operands read" column of R61). An operation
carries no operand it does not use (R33). -/
inductive Instr where
  /-- `ENCNUM`: quantize the float word on `v[0]` (R90). -/
  | encNum (v0 : Word)
  /-- `ENCFRAME`: build the 14-byte frame of `id` and `v[0..3]` (R120). -/
  | encFrame (id : Byte) (v : Vector Word 4)
  /-- `CHECKSUM`: sum of the first `n-1` bytes of `pkt`, modulo 256 (R140). -/
  | checksum (n : BitVec 4) (pkt : Vector Byte 14)
  /-- `TRANSMIT`: build the frame and hand it to the transport (R155). -/
  | transmit (id : Byte) (v : Vector Word 4)
  deriving DecidableEq, Repr

/-- `send_data` is another spelling of `TRANSMIT` with the same operands (R75 a, R159, 90_conflicts.md C4). -/
abbrev Instr.sendData (id : Byte) (v : Vector Word 4) : Instr := .transmit id v

end Sys2Proof
end

