-- ==== Sys2Proof/Decode.lean ====
section
/-! DEFINITION. The encodings of a request and of a float operand word: the port bundle a host drives in one
step (10_state.md R21), its decoder, total on any bundle (30_encoding.md R60, R61, R70), the encoder after it, and the
fields of a binary32 word (R63). -/

namespace Sys2Proof

/-- The operand ports of R21, as the host drives them for one whole step: the operation select `op` and the
operand ports `id`, `v[0..3]`, `pkt[0..13]`, `n`. -/
structure Request where
  op : BitVec 2
  id : Byte
  v : Vector Word 4
  pkt : Vector Byte 14
  n : BitVec 4
  deriving DecidableEq, Repr

/-- Every port at zero: the operand ports of a table word, which gives the operands no bits
(log entry 4). -/
def Request.zero : Request :=
  { op := 0, id := 0, v := #v[0, 0, 0, 0], pkt := #v[0, 0, 0, 0, 0, 0, 0, 0, 0, 0, 0, 0, 0, 0], n := 0 }

/-- The opcode map of R61: `op[1:0]` alone selects the operation (R60), all four code points are defined and
no decode can fail (R70). Ports the operation does not use are dropped (R33). -/
def decode (r : Request) : Instr :=
  if r.op = 0b00#2 then .encNum r.v[0]
  else if r.op = 0b01#2 then .encFrame r.id r.v
  else if r.op = 0b10#2 then .checksum r.n r.pkt
  else .transmit r.id r.v

/-- The code point of an operation (the first column of R61). -/
def opcode : Instr → BitVec 2
  | .encNum _ => 0b00#2
  | .encFrame _ _ => 0b01#2
  | .checksum _ _ => 0b10#2
  | .transmit _ _ => 0b11#2

/-- The request that presents `i`, on ports that stood at `bg`: the operation select and the ports the
operation uses are driven, and every other port keeps the value it had (its value is ignored, R33). -/
def encodeOn (bg : Request) (i : Instr) : Request :=
  match i with
  | .encNum v0 => { bg with op := opcode i, v := bg.v.set 0 v0 }
  | .encFrame id v => { bg with op := opcode i, id := id, v := v }
  | .checksum n pkt => { bg with op := opcode i, n := n, pkt := pkt }
  | .transmit id v => { bg with op := opcode i, id := id, v := v }

/-- The request that presents `i`, its unused ports at zero. -/
def encode (i : Instr) : Request := encodeOn .zero i

/-- A word of spec/opcode_table.json as a request: bits 1..0 are `op` (R60: "no other bit takes part in
decoding"), and the operand ports, which the table gives no bits, are zero (log entry 4). -/
def requestOfTableWord (w : Nat) : Request := { Request.zero with op := BitVec.ofNat 2 w }

/-- The instruction the decoder reads from a word numbered as the opcode table numbers it; never `none`,
since no decode can fail (R70). -/
def decodeTableWord (_nbits w : Nat) : Option Instr := some (decode (requestOfTableWord w))

/-- `s = w[31]`, the sign bit of a float word (R63). -/
def floatSign (w : Word) : Bool := w.getLsbD 31

/-- `e = w[30:23]`, the biased exponent (R63). -/
def floatExp (w : Word) : BitVec 8 := w.extractLsb 30 23

/-- `m = w[22:0]`, the trailing significand (R63). -/
def floatMant (w : Word) : BitVec 23 := w.extractLsb 22 0

/-- A word is finite when `e <= 254`; with `e = 255` it is an infinity or a NaN (R63). -/
def isFinite (w : Word) : Bool := floatExp w != 255#8

end Sys2Proof
end

