-- ==== Sys2Proof/Machine/State.lean ====
section
/-! DEFINITION. The machine's state (10_state.md R20, R22, R31, R32; 60_exceptions.md R171, R175), its reset, and
the reasons of the host's two other outcomes. -/

namespace Sys2Proof.Machine

/-- The closed list of reasons for which a step is refused (R171). A refused step is a NEXT state of this
machine, in which the refusal mark is set (R175, log entry 1). -/
inductive RefusalReason where
  /-- ENCNUM on `v[0]`, ENCFRAME and TRANSMIT on any of `v[0..3]`: the word has `e = 255` (R96, R124). -/
  | nonFiniteInput
  /-- CHECKSUM with `n = 0` or `n = 15` (R144). -/
  | lengthOutOfRange
  deriving DecidableEq, Repr

/-- The two outcomes of a step (R11). -/
inductive Verdict where
  | done
  | refused (why : RefusalReason)
  deriving DecidableEq, Repr

/-- The result ports of R22. `none` is the spec's own "holds no value": a port not written by the operation of the
current step, or any port of a refused step. -/
structure Results where
  /-- `enc[0..2]`, written by ENCNUM. -/
  enc : Option EncodedNumber
  /-- `frame[0..13]`, written by ENCFRAME. -/
  frame : Option Frame
  /-- `csum`, written by CHECKSUM. -/
  csum : Option Byte
  /-- `tx`, the one write event carrying 14 bytes, made by TRANSMIT. -/
  tx : Option Frame
  deriving DecidableEq, Repr

/-- No result port holds a value (R22, R32). -/
def Results.empty : Results := { enc := none, frame := none, csum := none, tx := none }

/-- The whole state of the block and of its environment as far as a step can touch it. The block has no registers,
program counter, flags, control registers or memory (R23 to R29); its transient values do not exist outside a
step (R28). -/
structure State where
  /-- The requests the host has still to present, the next one first: the index into the host's list belongs to
  the host, not to the block (R25). The head is what stands on the operand ports in the next step (R21). -/
  requests : List Request
  /-- The result ports as the last step left them (R22). -/
  results : Results
  /-- The outcome of the last step, none before the first (R11). Nothing reads it (R172). -/
  verdict : Option Verdict
  /-- `TX`, the transmit history: one 14-byte write event per TRANSMIT, oldest first (R31). -/
  txHistory : List Frame
  /-- The sticky refusal mark of the run, never cleared (R175 b). -/
  refusalMark : Bool
  deriving DecidableEq, Repr

/-- The machine right after reset (R32, R190): no request presented, no result port holding a value, `TX` empty, the
refusal mark clear. -/
def State.reset : State :=
  { requests := [], results := Results.empty, verdict := none, txHistory := [], refusalMark := false }

/-- The faults of the machine: none. "The set of exception causes is empty" (R170), and the block accesses no
address that could fail to exist (R29). Safe: no step of the model stops where the spec's goes on. -/
inductive Fault where
  deriving DecidableEq, Repr

/-- The reasons for which the model gives a step no meaning. -/
inductive Refusal where
  /-- Raised by `exec` for an operation that has no meaning in the model yet. Every operation has one, so
  no arm raises it. Safe. -/
  | notModelled (mnemonic : String)
  deriving DecidableEq, Repr

end Sys2Proof.Machine
end

