-- ==== Sys2Proof/WellFormed.lean ====
section
/-! DEFINITION. The contract of an operation's operands (30_encoding.md R71; 70_reset_and_hazards.md R192, R197):
a request outside it is one the machine refuses (60_exceptions.md R171). -/

namespace Sys2Proof

/-- The legal `n` of CHECKSUM: 1 to `NMAX` = 14 (R144, D6). -/
def lengthInRange (n : BitVec 4) : Bool := 1 ≤ n.toNat && n.toNat ≤ Config.nMax

/-- All four float operands of a frame are finite (R124). -/
def allFinite (v : Vector Word 4) : Bool :=
  isFinite v[0] && isFinite v[1] && isFinite v[2] && isFinite v[3]

/-- The operands the operation uses are inside its contract (R71): every float word it uses is finite, and a
length is in range. Every `id` and every `pkt` content is legal (R71 d, e). -/
def Instr.wellFormed : Instr → Bool
  | .encNum v0 => isFinite v0
  | .encFrame _ v => allFinite v
  | .checksum n _ => lengthInRange n
  | .transmit _ v => allFinite v

end Sys2Proof
end

