-- ==== Sys2Proof/Machine/Operands.lean ====
section
/-! DEFINITION. Reading the operand ports: a float word taken apart into sign, integer significand and power, and the
classes of input the rules distinguish (30_encoding.md R63, R64). -/

namespace Sys2Proof.Machine

/-- The parts of a finite float word, `none` for an infinity or a NaN, whose value is not defined (R63, R96).
Nothing is rounded and no subnormal is flushed (R101, R102). -/
def unpack (w : Word) : Option FloatParts :=
  if isFinite w then
    if floatExp w = 0#8 then
      some { sign := floatSign w, sig := (floatMant w).toNat, x := -149 }
    else
      some { sign := floatSign w, sig := 2 ^ 23 + (floatMant w).toNat, x := ((floatExp w).toNat : Int) - 150 }
  else none

/-- The classes of R64. -/
inductive FloatClass where
  | posZero
  | negZero
  | subnormal
  | normal
  | infinity
  | nan
  deriving DecidableEq, Repr

/-- The class of a float word (R64). -/
def classify (w : Word) : FloatClass :=
  if floatExp w = 255#8 then
    if floatMant w = 0#23 then .infinity else .nan
  else if floatExp w = 0#8 then
    if floatMant w = 0#23 then
      if floatSign w then .negZero else .posZero
    else .subnormal
  else .normal

end Sys2Proof.Machine
end

