-- ==== Sys2Proof/Machine/Ops.lean ====
section
/-! DEFINITION. The named operations over the state: how a step ends, done or refused, with each of its effects
(00_scope.md R9, R11; 60_exceptions.md R175; 43_transmit.md R155, R156), and what the host does (10_state.md R25). -/

namespace Sys2Proof.Machine

/-- A done step: the result ports hold exactly the values the operation wrote, and every other port holds no
value in this step (R11, R22, D15). -/
def done (r : Results) (s : State) : Host.Outcome State Fault Refusal :=
  .next { s with results := r, verdict := some .done }

/-- What a refused step does in place of a trap entry (R175): it writes no result port and makes no transport
write, the run's refusal mark is set, and the block itself remembers nothing, so the next request runs as if
this one had not been made. -/
def refuse (why : RefusalReason) (s : State) : Host.Outcome State Fault Refusal :=
  .next { s with results := Results.empty, verdict := some (.refused why), refusalMark := true }

/-- `TxWrite`: hand the 14 bytes to the transport as one write, appended to `TX` (R9, R31, R155, R156). -/
def txWrite (F : Frame) (s : State) : State := { s with txHistory := s.txHistory ++ [F] }

/-- The host puts further requests at the end of those it will present (R10, R25). -/
def present (rs : List Request) (s : State) : State := { s with requests := s.requests ++ rs }

/-- The request on the operand ports in this step, and the state with that request consumed; none when the host
presents nothing. -/
def takeRequest (s : State) : Option (Request × State) :=
  match s.requests with
  | [] => none
  | r :: rest => some (r, { s with requests := rest })

/-- With no request presented no step of the block is performed: it is idle and holds nothing that could be
lost (R10, R181, log entry 3). -/
def idle (s : State) : Host.Outcome State Fault Refusal := .next s

/-- Put the request of a table word before the host's other requests (log entry 4). -/
def presentTableWord (w : Nat) (s : State) : State := { s with requests := requestOfTableWord w :: s.requests }

end Sys2Proof.Machine
end

