-- ==== Sys2Proof/Machine/ChecksumGenerator.lean ====
section
/-! DEFINITION. The sub-block CSUM and the operation CHECKSUM (42_checksum.md R140 to R145). -/

namespace Sys2Proof.Machine

/-- The running sum `ACC <- (ACC + zext_32(byte)) mod 2^32`, first byte first (R140, R142). -/
def accumulate (acc : BitVec Config.accWidth) : List Byte → BitVec Config.accWidth
  | [] => acc
  | b :: bs => accumulate (acc + b.setWidth Config.accWidth) bs

/-- `Csum(B, n)` for `n >= 1`: the low 8 bits of the sum of the first `n-1` bytes of `B`. The checksum slot, index
`n-1`, and everything beyond it are not read (R140, R141, R143, R145). -/
def csum (B : List Byte) (n : Nat) : Byte := (accumulate 0 (B.take (n - 1))).setWidth 8

/-- CHECKSUM (R140): refused for `n = 0` and `n = 15` (R144). -/
def execChecksum (n : BitVec 4) (pkt : Vector Byte 14) (s : State) : Host.Outcome State Fault Refusal :=
  if lengthInRange n then done { Results.empty with csum := some (csum pkt.toList n.toNat) } s
  else refuse .lengthOutOfRange s

end Sys2Proof.Machine
end

