-- ==== Sys2Proof/Machine/Flags.lean ====
section
/-! DEFINITION. The block has no status flags (10_state.md R26). The one flag the spec computes is the sign flag of
an EncodedNumber, a bit of output data (40_encnum.md R94). -/

namespace Sys2Proof.Machine

/-- `sf = 1` exactly when `s = 1` or `sig = 0`: the value is less than or equal to zero, both zeros
included (R94). -/
def signFlag (p : FloatParts) : Bool := p.sign || p.sig == 0

end Sys2Proof.Machine
end

