-- ==== Sys2Proof/Machine/Quantizer.lean ====
section
/-! DEFINITION. The sub-block QUANT and the operation ENCNUM (40_encnum.md R90 to R104), by the integer-only procedure
of R98. `Machine/Value` holds the rational definition of R91 to R95 it is held against. -/

namespace Sys2Proof.Machine

/-- `I = floor(a)`, the integer part of `a = sig * 2^x`, not reduced (R98). -/
def intPart (p : FloatParts) : Nat :=
  match p.x with
  | .ofNat j => p.sig <<< j
  | .negSucc j => p.sig >>> (j + 1)

/-- `frac = floor((a - floor(a)) * 100)`, computed exactly (R93, R98). -/
def fraction (p : FloatParts) : Nat :=
  match p.x with
  | .ofNat _ => 0
  | .negSucc j => (p.sig % 2 ^ (j + 1) * Config.scale) >>> (j + 1)

/-- `mag = floor(a) mod 65536`: the wrap is silent (R92, R99). -/
def magnitude (p : FloatParts) : BitVec 16 := BitVec.ofNat 16 (intPart p)

/-- Packing (R68, R69, R95): the magnitude most significant byte first (R40), then the sign flag in bit 7 and the
fraction, unchecked, in bits 6 to 0. -/
def packNumber (mag : BitVec 16) (sf : Bool) (frac : BitVec 7) : EncodedNumber :=
  { high := mag.extractLsb 15 8, low := mag.extractLsb 7 0, signFrac := BitVec.ofBool sf ++ frac }

/-- The three bytes of a finite float (R90). -/
def quantize (p : FloatParts) : EncodedNumber :=
  packNumber (magnitude p) (signFlag p) (BitVec.ofNat 7 (fraction p))

/-- `Quant(w)`: the three bytes of a float word, none for an infinity or a NaN (R90, R96). -/
def quant (w : Word) : Option EncodedNumber := (unpack w).map quantize

/-- ENCNUM (R90). -/
def execEncNum (v0 : Word) (s : State) : Host.Outcome State Fault Refusal :=
  match quant v0 with
  | some e => done { Results.empty with enc := some e } s
  | none => refuse .nonFiniteInput s

end Sys2Proof.Machine
end

