-- ==== Sys2Proof/Machine/FrameAssembler.lean ====
section
/-! DEFINITION. The sub-block ASM and the operation ENCFRAME (41_encframe.md R120 to R128; 20_memory.md R46). The frame
buffer FB exists inside one step only (10_state.md R28): it is the pair of vectors below, offsets 0 to 12 first and
the checksum slot after them, so that every offset is written once (R44) and the sum is taken after the
bytes it reads are there (R48 b). -/

namespace Sys2Proof.Machine

/-- Offsets 0 to 12 of the frame buffer, in the order of the wire table (R46): the identifier, unmodified (R122), then
the four 3-byte groups, consecutively from offset 1 (R121). -/
def frameBody (id : Byte) (E : Vector EncodedNumber 4) : Vector Byte 13 :=
  #v[id,
    E[0].high, E[0].low, E[0].signFrac,
    E[1].high, E[1].low, E[1].signFrac,
    E[2].high, E[2].low, E[2].signFrac,
    E[3].high, E[3].low, E[3].signFrac]

/-- The whole frame: the checksum `Csum(FB, 14)` of offsets 0 to 12 goes to offset 13 (R123). -/
def assemble (id : Byte) (E : Vector EncodedNumber 4) : Frame :=
  (frameBody id E).push (csum (frameBody id E).toList Config.frameLen)

/-- The four EncodedNumbers of a frame's values, in the order of the values; none when at least one of the four
words is not finite (R120, R124). -/
def quantAll (v : Vector Word 4) : Option (Vector EncodedNumber 4) := do
  let e0 ← quant v[0]
  let e1 ← quant v[1]
  let e2 ← quant v[2]
  let e3 ← quant v[3]
  return #v[e0, e1, e2, e3]

/-- `Frame(id, v0, v1, v2, v3)`: the 14 bytes ENCFRAME gives, none when a word is not finite (R9, R120). -/
def frameOf (id : Byte) (v : Vector Word 4) : Option Frame := (quantAll v).map (assemble id)

/-- ENCFRAME (R120). -/
def execEncFrame (id : Byte) (v : Vector Word 4) (s : State) : Host.Outcome State Fault Refusal :=
  match frameOf id v with
  | some F => done { Results.empty with frame := some F } s
  | none => refuse .nonFiniteInput s

end Sys2Proof.Machine
end

