-- ==== Sys2Proof/Machine/Transmit.lean ====
section
/-! DEFINITION. The operation TRANSMIT, also spelled `send_data` (43_transmit.md R155 to R159). -/

namespace Sys2Proof.Machine

/-- TRANSMIT (R155): the frame is handed to the transport as one write, and no other result port is written, not
even `frame` (D17). Nothing is awaited (R157), and a refused TRANSMIT writes nothing at all (R158). -/
def execTransmit (id : Byte) (v : Vector Word 4) (s : State) : Host.Outcome State Fault Refusal :=
  match frameOf id v with
  | some F => done { Results.empty with tx := some F } (txWrite F s)
  | none => refuse .nonFiniteInput s

end Sys2Proof.Machine
end

