-- ==== Sys2Proof/Machine/Dispatch.lean ====
section
/-! DEFINITION. One arm per operation of 30_encoding.md R61. -/

namespace Sys2Proof.Machine

def exec (i : Instr) (s : State) : Host.Outcome State Fault Refusal :=
  match i with
  | .encNum v0 => Sys2Proof.Machine.execEncNum v0 s
  | .encFrame id v => Sys2Proof.Machine.execEncFrame id v s
  | .checksum n pkt => Sys2Proof.Machine.execChecksum n pkt s
  | .transmit id v => Sys2Proof.Machine.execTransmit id v s

end Sys2Proof.Machine
end

