-- ==== Sys2Proof/Machine/Step.lean ====
section
/-! DEFINITION. One step of the machine: one request performed whole (00_scope.md R10; 20_memory.md R48 a, R52). -/

namespace Sys2Proof.Machine

/-- One step: the request on the operand ports is decoded and performed; with none presented the block
stays idle. -/
def step (s : State) : Host.Outcome State Fault Refusal :=
  match takeRequest s with
  | none => idle s
  | some (r, s') => exec (decode r) s'

/-- `s` with the request of a table word as the very next one the host presents: this stands for the host's
presenting it (log entry 4). -/
def State.withFetchWord (s : State) (_nbits w : Nat) : State := presentTableWord w s

end Sys2Proof.Machine
end

