-- ==== Sys2Proof/Machine/Value.lean ====
section
/-! DEFINITION. The mathematics of the rules, on exact rationals: the value of a float word (30_encoding.md R63), the pieces
of the quantizer as R91 to R95 define them, the Nat sum of a packet (42_checksum.md R140), and the consumer's inverse
(40_encnum.md R105). The machine does not call these; claims hold it against them. -/

namespace Sys2Proof.Machine

/-- `Val(w) = (-1)^s * sig * 2^x`, with `sig = m`, `x = -149` if `e = 0`, else `sig = 2^23 + m`, `x = e - 150`. Meant
for a finite word: R63 does not define it for `e = 255`, and every claim has that premise. -/
def floatValue (w : Word) : ℚ :=
  (if floatSign w then -1 else 1) *
    (if floatExp w = 0#8 then ((floatMant w).toNat : ℚ) * 2 ^ (-149 : ℤ)
     else ((2 ^ 23 + (floatMant w).toNat : ℕ) : ℚ) * 2 ^ (((floatExp w).toNat : ℤ) - 150))

/-- `a = abs(Val(w))` (R91). -/
def absValue (w : Word) : ℚ := |floatValue w|

/-- `floor(a) mod 65536` (R92). -/
def refMagnitude (w : Word) : ℕ := ⌊absValue w⌋₊ % 65536

/-- `floor((a - floor(a)) * 100)` (R93). -/
def refFraction (w : Word) : ℕ := ⌊(absValue w - ⌊absValue w⌋₊) * 100⌋₊

/-- 1 if `Val(w) <= 0`, else 0 (R94). -/
def refSignFlag (w : Word) : ℕ := if floatValue w ≤ 0 then 1 else 0

/-- The three bytes of R90 by R68, R69 and R95: `mag div 256`, `mag mod 256`, `128*sf + frac`. -/
def refEncode (w : Word) : EncodedNumber :=
  { high := BitVec.ofNat 8 (refMagnitude w / 256)
    low := BitVec.ofNat 8 (refMagnitude w % 256)
    signFrac := BitVec.ofNat 8 (128 * refSignFlag w + refFraction w) }

/-- The sum of the values of some bytes, as a natural number (R140). -/
def byteSum (bs : List Byte) : ℕ := (bs.map BitVec.toNat).sum

end Sys2Proof.Machine

namespace Sys2Proof

/-- `magnitude = 256*byte0 + byte1` (R68, R105). -/
def EncodedNumber.magnitude (e : EncodedNumber) : ℕ := 256 * e.high.toNat + e.low.toNat

/-- `fraction = byte2 & 0x7F` (R65, R105). -/
def EncodedNumber.fraction (e : EncodedNumber) : ℕ := e.signFrac.toNat % 128

/-- The sign flag, bit 7 of byte 2 (R65). -/
def EncodedNumber.signFlag (e : EncodedNumber) : Bool := e.signFrac.getLsbD 7

/-- A consumer's reconstruction `sign * (magnitude + fraction/100)`, `sign` being -1 when the flag is 1 and +1 when it
is 0 (R105, 90_conflicts.md C7). The block has no decoder: information only. -/
def EncodedNumber.decodedValue (e : EncodedNumber) : ℚ :=
  (if e.signFlag then -1 else 1) * (e.magnitude + e.fraction / 100)

end Sys2Proof
end

