-- ==== Sys2Proof/Safety.lean ====
section
/-! DEFINITION. What counts as a good run and a good state, in the terms claims use (60_exceptions.md R175 b; 41_encframe.md
R126; 30_encoding.md R66). -/

namespace Sys2Proof.Machine

/-- The run so far went well: no step of it was refused (R175 b). Every claim about the HARDWARE takes this, or
operands within their contract, as a premise: of a refused step the source says nothing (D11). -/
def State.WentWell (s : State) : Prop := s.refusalMark = false

/-- Byte 2 of an EncodedNumber takes only the values `0x00` to `0x63` and `0x80` to `0xE3` (R66). -/
def signFracLegal (b : Byte) : Bool := b.toNat ≤ 0x63 || (0x80 ≤ b.toNat && b.toNat ≤ 0xE3)

/-- A complete, well-formed frame: offset 13 is the checksum of offsets 0 to 12 modulo 256 (R123), and the four sign
and fraction bytes are ones the block produces (R66). -/
def frameLegal (F : Frame) : Bool :=
  F[13].toNat == byteSum (F.toList.take 13) % 256 &&
    signFracLegal F[3] && signFracLegal F[6] && signFracLegal F[9] && signFracLegal F[12]

/-- How many result ports hold a value. -/
def Results.count (r : Results) : ℕ :=
  r.enc.toList.length + r.frame.toList.length + r.csum.toList.length + r.tx.toList.length

/-- What every state of a run satisfies: whatever stands on a result port or in `TX` is well formed, a done step
wrote exactly one result port and a refused step none (R11, R22), the event on `tx` is the last of `TX`
(R31), and a refused step left the mark set (R175 b). -/
structure State.Inv (s : State) : Prop where
  history : ∀ F ∈ s.txHistory, frameLegal F = true
  enc : ∀ e, s.results.enc = some e → signFracLegal e.signFrac = true
  frame : ∀ F, s.results.frame = some F → frameLegal F = true
  tx : ∀ F, s.results.tx = some F → s.txHistory.getLast? = some F
  notStarted : s.verdict = none → s.results = Results.empty
  done : s.verdict = some .done → s.results.count = 1
  refused : ∀ why, s.verdict = some (.refused why) → s.results = Results.empty ∧ s.refusalMark = true

/-- The write event a request causes, if it is done: the frame of a TRANSMIT (R31, R155). -/
def sentFrame (r : Request) : Option Frame :=
  match decode r with
  | .transmit id v => frameOf id v
  | _ => none

end Sys2Proof.Machine
end

