-- ==== Sys2Proof/Certificates/Slice0/Obligations.lean ====
section
/-! DEFINITION. The statements about this machine, for the provers. Each docstring names the rule it formalises.
Statements about a refused step say what the SPEC decides of it (D11, D13), not what silicon would drive; that such a step
is a NEXT state with the mark set is log entry 1, and that a step with a transport write ends at all is log entry 8. -/

open Sys2Proof Sys2Proof.Machine

/-! ### Reset, step, requests -/

/-- R190 (the spec's decision D9): a reset leaves the block idle, no result port holding a value, `TX` empty and the mark clear, and the first
operation's result is the same as it would be at any later time, in whatever state the request is presented. (That no
request is presented at reset and that no verdict stands is the model's way to say "idle": log entry 2.) -/
def Obligations.ResetLeavesTheBlockIdle : Prop :=
  State.reset.requests = [] ∧ State.reset.results = Results.empty ∧ State.reset.verdict = none ∧
  State.reset.txHistory = [] ∧ State.reset.refusalMark = false ∧
  step State.reset = .next State.reset ∧
  ∀ (r : Request) (s : State), s.requests = [] → ∃ t t', step (present [r] State.reset) = .next t ∧
    step (present [r] s) = .next t' ∧ t.results = t'.results ∧ t.verdict = t'.verdict

/-- R10, R52: the operation performed in a step is the one on the ports during that step, and the request is then
consumed. -/
def Obligations.StepPerformsTheDecodedRequest : Prop :=
  ∀ (s : State) (r : Request) (rest : List Request), s.requests = r :: rest →
    step s = exec (decode r) { s with requests := rest }

/-- The model's choice (log entry 3): with no request presented nothing changes. -/
def Obligations.StepWithoutRequestChangesNothing : Prop :=
  ∀ s : State, s.requests = [] → step s = .next s

/-- R60, R61, R70 (the code points are the spec's decision D4): `op` alone selects the operation, its four values are all defined, and no decode can fail. -/
def Obligations.DecodeFollowsTheOpcodeMap : Prop :=
  (∀ r : Request,
    (r.op = 0b00#2 → decode r = .encNum r.v[0]) ∧ (r.op = 0b01#2 → decode r = .encFrame r.id r.v) ∧
    (r.op = 0b10#2 → decode r = .checksum r.n r.pkt) ∧ (r.op = 0b11#2 → decode r = .transmit r.id r.v)) ∧
  (∀ r r' : Request, r.op = r'.op → opcode (decode r) = opcode (decode r')) ∧
  ∀ nbits w : ℕ, decodeTableWord nbits w ≠ none

/-- R60, R61, R33 (the code points are the spec's decision D4): decoding an encoded operation gives it back, with every
operand value and whatever the unused ports carry; and presenting again what a request decodes to drives the same ports,
which holds by the model's choice that an encoded request keeps the ports it does not use (log entry 13). -/
def Obligations.DecodeInvertsEncode : Prop :=
  (∀ (bg : Request) (i : Instr), decode (encodeOn bg i) = i) ∧ ∀ r : Request, encodeOn r (decode r) = r

/-- The four table words, and two requests with operands, decode to the operations R61 gives them (their operand
ports, of which the table says nothing, are zero: log entry 4). -/
def Obligations.TableWordsDecode : Prop :=
  decodeTableWord 8 0b00 = some (.encNum 0) ∧
  decodeTableWord 8 0b01 = some (.encFrame 0 #v[0, 0, 0, 0]) ∧
  decodeTableWord 8 0b10 = some (.checksum 0 #v[0, 0, 0, 0, 0, 0, 0, 0, 0, 0, 0, 0, 0, 0]) ∧
  decodeTableWord 8 0b11 = some (.transmit 0 #v[0, 0, 0, 0]) ∧
  decode { Request.zero with op := 0b00, v := #v[0xC0100000, 1, 2, 3] } = .encNum 0xC0100000 ∧
  decode { Request.zero with op := 0b11, id := 7, v := #v[0x3FC00000, 0xC0100000, 0, 0x42C83333] } =
    .transmit 7 #v[0x3FC00000, 0xC0100000, 0, 0x42C83333]

/-- R33 (the spec's decision D15): ports an operation does not use change nothing: two requests that agree on `op` and on the ports it reads
give the same step. CHECKSUM reads `n` and `pkt[0 .. n-2]` only. -/
def Obligations.UnusedPortsChangeNothing : Prop :=
  ∀ (s : State) (rest : List Request) (r r' : Request), r.op = r'.op →
    (r.op = 0b00#2 → r.v[0] = r'.v[0]) →
    (r.op = 0b01#2 ∨ r.op = 0b11#2 → r.id = r'.id ∧ r.v = r'.v) →
    (r.op = 0b10#2 → r.n = r'.n ∧ ∀ i, i + 1 < r.n.toNat → r.pkt[i]? = r'.pkt[i]?) →
    step { s with requests := r :: rest } = step { s with requests := r' :: rest }

/-! ### ENCNUM -/

/-- R90 with R92, R93 and R95: for every finite word ENCNUM is done, `enc` holds the three bytes the exact rational
definition gives (exact by the spec's decision D2), and nothing else of the state changes but the model's verdict. For
every other word it is refused (the spec's decisions D11 and D13): that this is a next state with the mark set is the
model's reading, log entry 1. -/
def Obligations.EncNumMeetsTheRationalDefinition : Prop :=
  ∀ (w : Word) (s : State),
    (floatExp w ≠ 255#8 → exec (.encNum w) s =
      .next { s with results := { Results.empty with enc := some (refEncode w) }, verdict := some .done }) ∧
    (floatExp w = 255#8 → exec (.encNum w) s = .next { s with
      results := Results.empty, verdict := some (.refused .nonFiniteInput), refusalMark := true })

/-- R96 (the spec's decision D11): on an infinity or a NaN `enc` holds no value and no state changes but the model's refusal mark and verdict. -/
def Obligations.EncNumRefusesNonFinite : Prop :=
  ∀ (w : Word) (s : State), floatExp w = 255#8 →
    ∃ t, exec (.encNum w) s = .next t ∧ t.results.enc = none ∧ t.results = Results.empty ∧
      t.verdict = some (.refused .nonFiniteInput) ∧ t.refusalMark = true ∧
      t.txHistory = s.txHistory ∧ t.requests = s.requests

/-- R94: the sign flag is 1 exactly when the value is less than or equal to zero, in bits exactly when `s = 1` or
`sig = 0`; it follows the input, not the quantized result (`0.004` gives `00 00 00`, `0.0` gives `00 00 80`). -/
def Obligations.SignFlagMarksNonPositiveInput : Prop :=
  (∀ (w : Word) (s : State), floatExp w ≠ 255#8 → ∃ e, exec (.encNum w) s =
      .next { s with results := { Results.empty with enc := some e }, verdict := some .done } ∧
    (e.signFlag = true ↔ floatValue w ≤ 0) ∧
    (e.signFlag = true ↔ floatSign w = true ∨ (floatExp w = 0#8 ∧ floatMant w = 0#23))) ∧
  ∀ s : State,
    exec (.encNum 0x3B83126F) s = .next { s with
      results := { Results.empty with enc := some ⟨0x00, 0x00, 0x00⟩ }, verdict := some .done } ∧
    exec (.encNum 0x00000000) s = .next { s with
      results := { Results.empty with enc := some ⟨0x00, 0x00, 0x80⟩ }, verdict := some .done }

/-- R99: the magnitude is `floor(a)` reduced modulo `2^16`, silently, with the rule's own instances: `65535.5`,
`65536.0`, `65537.25`, `70000.0`, `131071.5`. -/
def Obligations.MagnitudeWrapsSilently : Prop :=
  (∀ (w : Word) (s : State), floatExp w ≠ 255#8 → ∃ e, exec (.encNum w) s =
      .next { s with results := { Results.empty with enc := some e }, verdict := some .done } ∧
    e.magnitude = ⌊absValue w⌋₊ % 2 ^ 16) ∧
  ∀ s : State, ∀ q ∈ ([(0x477FFF80, 0xFF, 0xFF, 50), (0x47800000, 0x00, 0x00, 0), (0x478000A0, 0x00, 0x01, 25),
      (0x4788B800, 0x11, 0x70, 0), (0x47FFFFC0, 0xFF, 0xFF, 50)] : List (Word × Byte × Byte × Byte)),
    exec (.encNum q.1) s = .next { s with
      results := { Results.empty with enc := some ⟨q.2.1, q.2.2.1, q.2.2.2⟩ }, verdict := some .done }

/-- R100 (under the spec's decision D2, exact arithmetic): for every finite input the fraction is 0 to 99, so byte 2 takes none of the values `0x64` to `0x7F` and
`0xE4` to `0xFF`. -/
def Obligations.FractionNeverReachesOneHundred : Prop :=
  ∀ (w : Word) (s : State), floatExp w ≠ 255#8 → ∃ e, exec (.encNum w) s =
      .next { s with results := { Results.empty with enc := some e }, verdict := some .done } ∧
    e.fraction ≤ 99 ∧ ¬ (0x64 ≤ e.signFrac.toNat ∧ e.signFrac.toNat ≤ 0x7F) ∧ ¬ 0xE4 ≤ e.signFrac.toNat

/-- R64 (its bit patterns are general knowledge, G1): the words of each class, and its treatment. -/
def Obligations.InputClassesAreTreatedAsTabulated : Prop :=
  ∀ (w : Word) (s : State),
    (classify w = .posZero ↔ w = 0x00000000) ∧ (classify w = .negZero ↔ w = 0x80000000) ∧
    (classify w = .subnormal ↔ floatExp w = 0#8 ∧ floatMant w ≠ 0#23) ∧
    (classify w = .normal ↔ 1 ≤ (floatExp w).toNat ∧ (floatExp w).toNat ≤ 254) ∧
    (classify w = .infinity ↔ w = 0x7F800000 ∨ w = 0xFF800000) ∧
    (classify w = .nan ↔ floatExp w = 255#8 ∧ floatMant w ≠ 0#23) ∧
    (classify w = .posZero ∨ classify w = .negZero → floatValue w = 0 ∧ ∃ e, exec (.encNum w) s =
      .next { s with results := { Results.empty with enc := some e }, verdict := some .done } ∧ e.signFlag = true) ∧
    (classify w = .subnormal → 0 < absValue w ∧ absValue w < 2 ^ (-126 : ℤ) ∧ ∃ e, exec (.encNum w) s =
      .next { s with results := { Results.empty with enc := some e }, verdict := some .done } ∧
        e.magnitude = 0 ∧ e.fraction = 0) ∧
    (classify w = .normal → ∃ e, exec (.encNum w) s =
      .next { s with results := { Results.empty with enc := some e }, verdict := some .done }) ∧
    (classify w = .infinity ∨ classify w = .nan → ∃ t, exec (.encNum w) s = .next t ∧
      t.verdict = some (.refused .nonFiniteInput) ∧ t.results = Results.empty)

/-- R102: both zeros give `00 00 80`; a subnormal keeps its exact value and gives `00 00 00` or, negative, `00 00 80`; so
does every finite input with `0 < a < 0.01`. -/
def Obligations.ZerosAndTinyValuesEncodeAsZeroBytes : Prop :=
  ∀ (w : Word) (s : State), floatExp w ≠ 255#8 →
    (absValue w = 0 → exec (.encNum w) s = .next { s with
      results := { Results.empty with enc := some ⟨0, 0, 0x80⟩ }, verdict := some .done }) ∧
    (floatExp w = 0#8 → floatMant w ≠ 0#23 → 0 < absValue w ∧ absValue w < 2 ^ (-126 : ℤ)) ∧
    (0 < absValue w → absValue w < 1 / 100 → exec (.encNum w) s = .next { s with
      results := { Results.empty with enc := some ⟨0, 0, if floatSign w then 0x80 else 0⟩ }, verdict := some .done })

/-- R103: from `2^23` on a value is an integer and its fraction is 0; from `2^(23+j)` on it is a multiple of `2^j`; from
`2^39` on the magnitude is 0 too; the largest finite word encodes as `00 00 00`. -/
def Obligations.LargeValuesLoseFractionThenMagnitude : Prop :=
  (∀ (w : Word) (s : State), floatExp w ≠ 255#8 →
    (∀ j : ℕ, (2 : ℚ) ^ (23 + j) ≤ absValue w → ∃ m : ℕ, absValue w = m * 2 ^ j) ∧
    ((2 : ℚ) ^ 23 ≤ absValue w → ∃ e, exec (.encNum w) s =
      .next { s with results := { Results.empty with enc := some e }, verdict := some .done } ∧ e.fraction = 0) ∧
    ((2 : ℚ) ^ 39 ≤ absValue w → exec (.encNum w) s = .next { s with
      results := { Results.empty with enc := some ⟨0, 0, if floatValue w ≤ 0 then 0x80 else 0⟩ },
      verdict := some .done })) ∧
  ∀ s : State, exec (.encNum 0x7F7FFFFF) s = .next { s with
    results := { Results.empty with enc := some ⟨0, 0, 0⟩ }, verdict := some .done }

/-- R104 (derived by the spec): for a finite input with `a < 65536` and `d = mag + frac/100`, `d <= a < d + 1/100`; in
general a multiple `65536 * j` is lost, none when `a < 65536`. The literal `99.99` has fraction 98 (90_conflicts.md
C1). -/
def Obligations.EncodingIsAccurateToOneHundredth : Prop :=
  (∀ (w : Word) (s : State), floatExp w ≠ 255#8 → ∃ e j, exec (.encNum w) s =
      .next { s with results := { Results.empty with enc := some e }, verdict := some .done } ∧
    ((65536 * j + e.magnitude : ℕ) : ℚ) + e.fraction / 100 ≤ absValue w ∧
    absValue w < ((65536 * j + e.magnitude : ℕ) : ℚ) + e.fraction / 100 + 1 / 100 ∧
    (absValue w < 65536 → j = 0)) ∧
  ∀ s : State, ∃ e, exec (.encNum 0x42C7FAE1) s =
      .next { s with results := { Results.empty with enc := some e }, verdict := some .done } ∧
    e.magnitude = 99 ∧ e.fraction = 98

/-- R105 (information for a consumer): below 65536 in absolute value the reconstruction is within 0.01 of the input and
no larger in absolute value, and an encoded zero reconstructs to 0. -/
def Obligations.ReconstructionIsWithinOneHundredth : Prop :=
  ∀ (w : Word) (s : State), floatExp w ≠ 255#8 → absValue w < 65536 → ∃ e, exec (.encNum w) s =
      .next { s with results := { Results.empty with enc := some e }, verdict := some .done } ∧
    |e.decodedValue - floatValue w| < 1 / 100 ∧ |e.decodedValue| ≤ |floatValue w| ∧
    (floatValue w = 0 → e.decodedValue = 0)

/-- R68, R69: the packing of any magnitude, sign flag and 7-bit fraction, which is not range-checked. -/
def Obligations.PackingPlacesEveryField : Prop :=
  ∀ (mag : BitVec 16) (sf : Bool) (frac : BitVec 7),
    (packNumber mag sf frac).high.toNat = mag.toNat / 256 ∧ (packNumber mag sf frac).low.toNat = mag.toNat % 256 ∧
    mag.toNat = 256 * (packNumber mag sf frac).high.toNat + (packNumber mag sf frac).low.toNat ∧
    (packNumber mag sf frac).signFrac.toNat = 128 * sf.toNat + frac.toNat ∧
    (packNumber mag sf frac).signFrac.toNat = sf.toNat <<< 7 ||| frac.toNat

/-! ### ENCFRAME -/

/-- R120 to R123: with four finite words ENCFRAME is done and `frame` holds the identifier at offset 0, byte `j` of the
EncodedNumber of `v[k]` at offset `1 + 3k + j`, and the sum of offsets 0 to 12 modulo 256 at offset 13; nothing else
of the state changes but the model's verdict. Otherwise the whole step is refused (R124, the spec's decisions D11 and
D13): that this is a next state with the mark set is the model's reading, log entry 1. -/
def Obligations.EncFrameFillsTheWireTable : Prop :=
  ∀ (id : Byte) (v : Vector Word 4) (s : State),
    ((∀ k : Fin 4, floatExp v[k] ≠ 255#8) → ∃ F : Frame,
      exec (.encFrame id v) s =
        .next { s with results := { Results.empty with frame := some F }, verdict := some .done } ∧
      F[0] = id ∧
      (∀ k : Fin 4, F[1 + 3 * k.val]? = some (refEncode v[k]).high ∧ F[2 + 3 * k.val]? = some (refEncode v[k]).low ∧
        F[3 + 3 * k.val]? = some (refEncode v[k]).signFrac) ∧
      F[13].toNat = byteSum (F.toList.take 13) % 256) ∧
    ((∃ k : Fin 4, floatExp v[k] = 255#8) → exec (.encFrame id v) s = .next { s with
      results := Results.empty, verdict := some (.refused .nonFiniteInput), refusalMark := true })

/-- R40: in the frame the magnitude of value `k` stands most significant byte first at offsets `1+3k` and `2+3k`. -/
def Obligations.MagnitudeIsBigEndianInTheFrame : Prop :=
  ∀ (id : Byte) (v : Vector Word 4) (s : State), (∀ k : Fin 4, floatExp v[k] ≠ 255#8) → ∃ F : Frame,
    exec (.encFrame id v) s =
      .next { s with results := { Results.empty with frame := some F }, verdict := some .done } ∧
    ∀ k : Fin 4, F[1 + 3 * k.val]? = some ((BitVec.ofNat 16 (refMagnitude v[k])).extractLsb 15 8) ∧
      F[2 + 3 * k.val]? = some ((BitVec.ofNat 16 (refMagnitude v[k])).extractLsb 7 0)

/-- R125: for every `id` and four finite floats the frame has exactly 14 bytes and byte 0 equal to `id`. -/
def Obligations.FrameHasFourteenBytesAndItsId : Prop :=
  ∀ (id : Byte) (v : Vector Word 4) (s : State), allFinite v = true → ∃ F : Frame,
    exec (.encFrame id v) s =
      .next { s with results := { Results.empty with frame := some F }, verdict := some .done } ∧
    F.toList.length = 14 ∧ F.toList.head? = some id

/-- R126: CHECKSUM over a produced frame with `n = 14`, in whatever state it is asked, gives the frame's offset 13; the
bytes 0 to 12 and offset 13 agree modulo 256. -/
def Obligations.ProducedFrameVerifies : Prop :=
  ∀ (id : Byte) (v : Vector Word 4) (s t : State) (F : Frame), exec (.encFrame id v) s = .next t →
    t.results.frame = some F →
    (∀ s', exec (.checksum 14 F) s' =
      .next { s' with results := { Results.empty with csum := some F[13] }, verdict := some .done }) ∧
    byteSum (F.toList.take 13) % 256 = F[13].toNat

/-- R127: the same operands give the same frame in any two states; and, which the spec itself derives from R121 and R123,
changing `v[k]` changes at most offsets `1+3k` to
`3+3k` and offset 13. -/
def Obligations.FrameDependsOnItsOperandsAlone : Prop :=
  ∀ (id : Byte) (v v' : Vector Word 4) (s s' t t' : State) (F F' : Frame),
    exec (.encFrame id v) s = .next t → exec (.encFrame id v') s' = .next t' →
    t.results.frame = some F → t'.results.frame = some F' →
    (v = v' → F = F') ∧
    ∀ k : Fin 4, (∀ j : Fin 4, j ≠ k → v[j] = v'[j]) →
      ∀ i, i < 13 → (i < 1 + 3 * k.val ∨ 3 + 3 * k.val < i) → F[i]? = F'[i]?

/-- R124 (the spec's decision D11): if any of the four words is non-finite the whole step is refused: no frame, no partial frame, and for TRANSMIT
no transport write. -/
def Obligations.OneNonFiniteWordRefusesTheFrame : Prop :=
  ∀ (id : Byte) (v : Vector Word 4) (s : State) (k : Fin 4), floatExp v[k] = 255#8 →
    (∃ t, exec (.encFrame id v) s = .next t ∧ t.verdict = some (.refused .nonFiniteInput) ∧
      t.results = Results.empty ∧ t.txHistory = s.txHistory) ∧
    ∃ t, exec (.transmit id v) s = .next t ∧ t.verdict = some (.refused .nonFiniteInput) ∧
      t.results = Results.empty ∧ t.txHistory = s.txHistory

/-- R75 c, and program P2: four ENCNUM steps, a placement by the host and one CHECKSUM step with `n = 14` give the very
frame ENCFRAME gives, whatever byte the host left in the checksum slot. -/
def Obligations.FrameBuiltByPartsEqualsEncFrame : Prop :=
  ∀ (id slot : Byte) (v : Vector Word 4) (E : Vector EncodedNumber 4) (c : Byte)
    (s : State) (sk tk : Fin 4 → State) (sc tc : State),
    (∀ k : Fin 4, exec (.encNum v[k]) (sk k) = .next (tk k) ∧ (tk k).results.enc = some E[k]) →
    exec (.checksum 14 #v[id, E[0].high, E[0].low, E[0].signFrac, E[1].high, E[1].low, E[1].signFrac,
      E[2].high, E[2].low, E[2].signFrac, E[3].high, E[3].low, E[3].signFrac, slot]) sc = .next tc →
    tc.results.csum = some c →
    exec (.encFrame id v) s = .next { s with
      results := { Results.empty with frame := some #v[id, E[0].high, E[0].low, E[0].signFrac,
        E[1].high, E[1].low, E[1].signFrac, E[2].high, E[2].low, E[2].signFrac,
        E[3].high, E[3].low, E[3].signFrac, c] },
      verdict := some .done }

/-- R120's bound, with 90_conflicts.md C11: the 13 summed bytes of a produced frame add up to at most 3203, and `id = 0xFF`
with four groups `FF FF E3` reaches it, with checksum `0x83`. -/
def Obligations.LargestFrameSumIs3203 : Prop :=
  (∀ (id : Byte) (v : Vector Word 4) (s t : State) (F : Frame), exec (.encFrame id v) s = .next t →
    t.results.frame = some F → byteSum (F.toList.take 13) ≤ 3203) ∧
  ∀ s : State, ∃ F : Frame, exec (.encFrame 0xFF #v[0xC77FFFFF, 0xC77FFFFF, 0xC77FFFFF, 0xC77FFFFF]) s =
      .next { s with results := { Results.empty with frame := some F }, verdict := some .done } ∧
    byteSum (F.toList.take 13) = 3203 ∧ F[13] = 0x83

/-! ### CHECKSUM -/

/-- R140: for `n` from 1 to 14 CHECKSUM is done and `csum` holds the sum of the first `n-1` bytes modulo 256, the empty
sum for `n = 1`; nothing else of the state changes but the model's verdict. For `n = 0` and `n = 15` it is refused (R144,
the spec's decision D6, log entry 9): that this is a next state with the mark set (D13) is the model's reading, log
entry 1. The function itself is the
sum for any bytes `B` and any `n >= 1` up to their number. -/
def Obligations.ChecksumIsTheSumModulo256 : Prop :=
  (∀ (B : List Byte) (n : ℕ), 1 ≤ n → n ≤ B.length → (csum B n).toNat = byteSum (B.take (n - 1)) % 256) ∧
  ∀ (n : BitVec 4) (pkt : Vector Byte 14) (s : State),
    (1 ≤ n.toNat → n.toNat ≤ 14 → exec (.checksum n pkt) s = .next { s with
      results := { Results.empty with csum := some (BitVec.ofNat 8 (byteSum (pkt.toList.take (n.toNat - 1)) % 256)) },
      verdict := some .done }) ∧
    (n = 0#4 ∨ n = 15#4 → exec (.checksum n pkt) s = .next { s with
      results := Results.empty, verdict := some (.refused .lengthOutOfRange), refusalMark := true })

/-- R142 (derived by the spec; the 32 bits are its decision D7): any wrapping accumulator of 8 bits or more gives the same `csum`, and with `n <= 14` the sum is at most 3315, so
that a 32-bit accumulator never wraps. -/
def Obligations.AccumulatorWidthDoesNotMatter : Prop :=
  ∀ (n : BitVec 4) (pkt : Vector Byte 14) (s : State) (W : ℕ), 8 ≤ W → 1 ≤ n.toNat → n.toNat ≤ 14 →
    exec (.checksum n pkt) s = .next { s with
      results := { Results.empty with
        csum := some (BitVec.ofNat 8 (byteSum (pkt.toList.take (n.toNat - 1)) % 2 ^ W % 256)) },
      verdict := some .done } ∧
    byteSum (pkt.toList.take (n.toNat - 1)) ≤ 3315 ∧
    (accumulate 0 (pkt.toList.take (n.toNat - 1))).toNat = byteSum (pkt.toList.take (n.toNat - 1))

/-- R141, R143, R145: exactly the indices 0 to `n-2` are read. Packets that agree there give the same step, whatever stands
in the checksum slot and beyond the length, and index 13 is never read; and each of those indices IS read: for a legal
`n`, a change of the one byte there changes `csum`. -/
def Obligations.ChecksumReadsOnlyBelowTheSlot : Prop :=
  ∀ (n : BitVec 4) (pkt pkt' : Vector Byte 14) (s : State),
    (∀ i, i + 1 < n.toNat → pkt[i]? = pkt'[i]?) →
    exec (.checksum n pkt) s = exec (.checksum n pkt') s ∧
    (∀ b : Byte, exec (.checksum n (pkt.set 13 b)) s = exec (.checksum n pkt) s) ∧
    ∀ (i : Fin 14) (b : Byte), n.toNat ≤ 14 → i.val + 1 < n.toNat → b ≠ pkt[i] → ∃ c c' : Byte, c ≠ c' ∧
      exec (.checksum n pkt) s =
        .next { s with results := { Results.empty with csum := some c }, verdict := some .done } ∧
      exec (.checksum n (pkt.set i b)) s =
        .next { s with results := { Results.empty with csum := some c' }, verdict := some .done }

/-- R144 (the spec's decision D6): `n = 0` and `n = 15` are refused with `LengthOutOfRange` and have no value; 1 to 14 are legal. -/
def Obligations.ChecksumLengthMustBeInRange : Prop :=
  ∀ (n : BitVec 4) (pkt : Vector Byte 14) (s : State), ∃ t, exec (.checksum n pkt) s = .next t ∧
    (t.verdict = some (.refused .lengthOutOfRange) ↔ n = 0#4 ∨ n = 15#4) ∧
    (t.verdict = some .done ↔ 1 ≤ n.toNat ∧ n.toNat ≤ 14) ∧
    (n = 0#4 ∨ n = 15#4 → t.results = Results.empty)

/-- R146 (derived by the spec): on a frame that verifies, any change of one byte is detected and any permutation of offsets
0 to 12 is not; changes of offsets 0 to 12 go undetected exactly when their differences add up to 0 modulo 256, so every
unbalanced change there, of however many bytes, is detected. -/
def Obligations.ChecksumDetectsExactlyUnbalancedErrors : Prop :=
  ∀ (F G : Frame) (s t : State) (c : Byte), byteSum (F.toList.take 13) % 256 = F[13].toNat →
    exec (.checksum 14 G) s = .next t → t.results.csum = some c →
    (∀ (i : Fin 14) (b : Byte), b ≠ F[i] → G = F.set i b → c ≠ G[13]) ∧
    (G[13] = F[13] → (G.toList.take 13).Perm (F.toList.take 13) → c = G[13]) ∧
    (G[13] = F[13] →
      (c = G[13] ↔ ((byteSum (G.toList.take 13) : ℤ) - byteSum (F.toList.take 13)) % 256 = 0))

/-! ### TRANSMIT -/

/-- R155: with four finite words TRANSMIT appends to `TX` one event, the frame ENCFRAME gives for the same operands, and
writes no result port but `tx` (the empty `frame` port is the spec's decision D17); nothing else of the state changes but
the model's verdict. Otherwise it is refused (R158, the spec's decisions D11 and D13): that this is a next state with
the mark set is the model's reading, log entry 1. -/
def Obligations.TransmitAppendsTheFrameAsOneEvent : Prop :=
  ∀ (id : Byte) (v : Vector Word 4) (s : State),
    ((∀ k : Fin 4, floatExp v[k] ≠ 255#8) → ∃ F : Frame,
      exec (.encFrame id v) s =
        .next { s with results := { Results.empty with frame := some F }, verdict := some .done } ∧
      exec (.transmit id v) s = .next { s with
        results := { Results.empty with tx := some F }, txHistory := s.txHistory ++ [F], verdict := some .done }) ∧
    ((∃ k : Fin 4, floatExp v[k] = 255#8) → exec (.transmit id v) s = .next { s with
      results := Results.empty, verdict := some (.refused .nonFiniteInput), refusalMark := true })

/-- R158 (the spec's decision D11): when TRANSMIT is refused nothing is written to the transport, not a partial frame and not the id byte. -/
def Obligations.RefusedTransmitWritesNothing : Prop :=
  ∀ (id : Byte) (v : Vector Word 4) (s : State), allFinite v = false →
    ∃ t, exec (.transmit id v) s = .next t ∧ t.txHistory = s.txHistory ∧ t.results.tx = none

/-- R45: ENCNUM, ENCFRAME and CHECKSUM are repeatable and have no side effect, performed twice they leave the same result
ports and `TX` as it was; TRANSMIT is deterministic in the bytes it sends and not idempotent in its effect, performed
twice it appends its frame twice. -/
def Obligations.TransmitIsNotIdempotentInItsEffect : Prop :=
  (∀ (i : Instr) (s : State), (∀ id v, i ≠ .transmit id v) → ∃ t u : State,
    exec i s = .next t ∧ exec i t = .next u ∧ u.results = t.results ∧ u.verdict = t.verdict ∧
    t.txHistory = s.txHistory ∧ u.txHistory = s.txHistory) ∧
  ∀ (id : Byte) (v : Vector Word 4) (s : State), allFinite v = true → ∃ (F : Frame) (t u : State),
    frameOf id v = some F ∧ exec (.transmit id v) s = .next t ∧ exec (.transmit id v) t = .next u ∧
    t.txHistory = s.txHistory ++ [F] ∧ u.txHistory = s.txHistory ++ [F, F] ∧ u.results = t.results

/-! ### The whole machine -/

/-- R171 (the spec's decision D11; that a refused step is a next state is log entry 1): a request inside the contract is done and leaves the mark as it was; any other is refused, with the one reason
its operation has; there is no other outcome. -/
def Obligations.EveryRequestIsDoneOrRefusedForItsReason : Prop :=
  ∀ (i : Instr) (s : State), ∃ t, exec i s = .next t ∧
    (i.wellFormed = true → t.verdict = some .done ∧ t.refusalMark = s.refusalMark) ∧
    (i.wellFormed = false → t.verdict = some (.refused
        (match i with | .checksum _ _ => .lengthOutOfRange | _ => .nonFiniteInput)) ∧ t.refusalMark = true)

/-- R11, R170: every step of the machine answers a next state. That a refused step is one is log entry 1, and that the
hand-over of a TRANSMIT to the transport ends is log entry 8 (the spec's D10 and R195), which is unsafe: a transport that
stalls for ever hangs the real block. -/
def Obligations.EveryStepAnswersANextState : Prop :=
  ∀ s : State, ∃ t, step s = .next t

/-- R22, R30 (unwritten ports hold no value by the spec's decision D15): what each operation leaves alone. The host's requests are untouched; every result port the operation does
not write holds no value; only TRANSMIT changes `TX`, by appending one event; the mark of a done step is kept. -/
def Obligations.OperationsTouchOnlyWhatTheyWrite : Prop :=
  ∀ (i : Instr) (s t : State), exec i s = .next t →
    t.requests = s.requests ∧
    (i.wellFormed = true → t.refusalMark = s.refusalMark) ∧
    (opcode i ≠ 0b00#2 → t.results.enc = none) ∧ (opcode i ≠ 0b01#2 → t.results.frame = none) ∧
    (opcode i ≠ 0b10#2 → t.results.csum = none) ∧ (opcode i ≠ 0b11#2 → t.results.tx = none) ∧
    (opcode i ≠ 0b11#2 → t.txHistory = s.txHistory) ∧
    (t.txHistory = s.txHistory ∨ ∃ F, t.txHistory = s.txHistory ++ [F] ∧ t.results.tx = some F)

/-- R20: the result of an operation is a function of its operands alone: in any two states it gives the same ports, the
same verdict and the same transport writes. -/
def Obligations.NoOperationObservesAnEarlierOne : Prop :=
  ∀ (i : Instr) (s s' : State), ∃ t t' ev, exec i s = .next t ∧ exec i s' = .next t' ∧
    t.results = t'.results ∧ t.verdict = t'.verdict ∧
    t.txHistory = s.txHistory ++ ev ∧ t'.txHistory = s'.txHistory ++ ev

/-- R175 b (the spec's decision D13): no step clears the refusal mark, and a step sets it only by refusing a request. -/
def Obligations.RefusalMarkIsSticky : Prop :=
  ∀ s t : State, step s = .next t →
    (s.refusalMark = true → t.refusalMark = true) ∧
    (s.refusalMark = false → t.refusalMark = true → ∃ r rest, s.requests = r :: rest ∧ (decode r).wellFormed = false)

/-- Every step keeps the invariant of `Safety`: every event of `TX` and every value on a result port is well formed, a
done step wrote one port, a refused one none, and the event on `tx` is the last of `TX`. -/
def Obligations.EveryStepKeepsTheInvariant : Prop :=
  ∀ s t : State, s.Inv → step s = .next t → t.Inv

/-- The invariant of `Safety` holds after reset. -/
def Obligations.ResetMeetsTheInvariant : Prop := State.reset.Inv

/-- R31, R41, R48 c: performing all the requests presented, from any state, makes `TX` grow by exactly the frames of the
done TRANSMITs, in request order, and leaves the mark set exactly when it was set or some request was outside its
contract. R41 gives the order only: that the pending requests are a list in the state is log entry 2, that the run ends in
a next state is log entries 1 and 8, and the mark is the spec's decision D13. -/
def Obligations.HistoryIsTheFramesSentInOrder : Prop :=
  ∀ s : State, ∃ t : State, Sys2Proof.core.run s.requests.length s = .next t ∧ t.requests = [] ∧
    t.txHistory = s.txHistory ++ s.requests.filterMap sentFrame ∧
    t.refusalMark = (s.refusalMark || s.requests.any fun r => !(decode r).wellFormed)

/-- R175 (the spec's decision D13): a refused request leaves no trace but the mark: the run with it and the run without it end with the same `TX`
and, when a request follows it, with the same result ports and verdict. That both runs end in a next state is log entries 1
and 8. -/
def Obligations.RefusedRequestLeavesOnlyTheMark : Prop :=
  ∀ (s : State) (pre post : List Request) (r : Request), (decode r).wellFormed = false →
    ∃ t u : State,
      Sys2Proof.core.run (pre ++ r :: post).length { s with requests := pre ++ r :: post } = .next t ∧
      Sys2Proof.core.run (pre ++ post).length { s with requests := pre ++ post } = .next u ∧
      t.txHistory = u.txHistory ∧ t.requests = [] ∧ u.requests = [] ∧ t.refusalMark = true ∧
      (post ≠ [] → t.results = u.results ∧ t.verdict = u.verdict) ∧
      (post = [] → t.results = Results.empty)
end

