-- ==== Sys2Proof/Laws/Checksum.lean ====
section
/-! SUPPORT. The checksum as a sum of natural numbers: what `csum` is, once and for all. -/

namespace Sys2Proof.Machine

/-- The 32-bit accumulator holds the sum of the bytes modulo `2^32`. -/
theorem accumulate_eq (acc : BitVec 32) (bs : List Byte) :
    accumulate acc bs = acc + BitVec.ofNat 32 (byteSum bs) := by
  induction bs generalizing acc with
  | nil => simp [accumulate, byteSum]
  | cons b bs ih =>
    have hb : b.setWidth 32 = BitVec.ofNat 32 b.toNat := by
      apply BitVec.eq_of_toNat_eq
      simp
    rw [accumulate, ih]
    simp only [byteSum, List.map_cons, List.sum_cons] at *
    rw [hb, BitVec.add_assoc, ← BitVec.ofNat_add]

/-- `Csum(B, n)` is the sum of the first `n-1` bytes modulo 256. -/
theorem csum_toNat (B : List Byte) (n : Nat) : (csum B n).toNat = byteSum (B.take (n - 1)) % 256 := by
  rw [csum, accumulate_eq]
  have h0 : (0 : BitVec 32) + BitVec.ofNat 32 (byteSum (B.take (n - 1))) = BitVec.ofNat 32 (byteSum (B.take (n - 1))) := by
    simp
  rw [h0, BitVec.toNat_setWidth, BitVec.toNat_ofNat]
  exact Nat.mod_mod_of_dvd _ (by decide)

/-- Storing one byte moves the sum by the difference of the two values. -/
theorem byteSum_set (bs : List Byte) (i : Nat) (hi : i < bs.length) (b : Byte) :
    byteSum (bs.set i b) + bs[i].toNat = byteSum bs + b.toNat := by
  induction bs generalizing i with
  | nil => exact absurd hi (Nat.not_lt_zero i)
  | cons a bs ih =>
    cases i with
    | zero => simp only [byteSum, List.set_cons_zero, List.map_cons, List.sum_cons, List.getElem_cons_zero]; omega
    | succ i =>
      have h := ih i (Nat.lt_of_succ_lt_succ hi)
      simp only [byteSum, List.set_cons_succ, List.map_cons, List.sum_cons, List.getElem_cons_succ] at h ⊢
      omega

/-- Two checksums over the same length are equal exactly when the sums differ by a multiple of 256. -/
theorem csum_eq_iff (B B' : List Byte) (n : Nat) :
    csum B n = csum B' n ↔ byteSum (B.take (n - 1)) % 256 = byteSum (B'.take (n - 1)) % 256 := by
  rw [BitVec.toNat_eq, csum_toNat, csum_toNat]

/-- Only the first `n-1` bytes are read. -/
theorem csum_congr {B B' : List Byte} {n : Nat} (h : B.take (n - 1) = B'.take (n - 1)) : csum B n = csum B' n := by
  simp only [csum, h]

end Sys2Proof.Machine
end

