-- ==== Sys2Proof/Laws/Quantizer.lean ====
section
/-! SUPPORT. When the quantizer and the assembler answer, and what a frame holds at each offset. -/

namespace Sys2Proof.Machine

/-- A word has parts exactly when it is finite. -/
theorem unpack_isSome (w : Word) : (unpack w).isSome = isFinite w := by
  unfold unpack
  split
  · split <;> simp_all
  · simp_all

/-- `Quant` answers exactly on finite words. -/
theorem quant_isSome (w : Word) : (quant w).isSome = isFinite w := by
  simp [quant, unpack_isSome]

theorem quant_none_iff (w : Word) : quant w = none ↔ isFinite w = false := by
  have h := quant_isSome w
  cases hq : quant w <;> simp_all

theorem quant_some_of_finite {w : Word} (h : isFinite w = true) : ∃ e, quant w = some e := by
  have := quant_isSome w
  rw [h] at this
  exact Option.isSome_iff_exists.mp this

/-- The frame's values are all quantized, or none is. -/
theorem quantAll_eq_some (v : Vector Word 4) (E : Vector EncodedNumber 4) :
    quantAll v = some E ↔
      quant v[0] = some E[0] ∧ quant v[1] = some E[1] ∧ quant v[2] = some E[2] ∧ quant v[3] = some E[3] := by
  unfold quantAll
  constructor
  · intro h
    rcases h0 : quant v[0] with _ | e0 <;> rcases h1 : quant v[1] with _ | e1 <;>
      rcases h2 : quant v[2] with _ | e2 <;> rcases h3 : quant v[3] with _ | e3 <;>
      simp only [h0, h1, h2, h3, Option.bind_eq_bind, Option.bind_some, Option.bind_none, Option.pure_def,
        Option.some.injEq, reduceCtorEq] at h
    subst h
    exact ⟨rfl, rfl, rfl, rfl⟩
  · rintro ⟨h0, h1, h2, h3⟩
    simp only [h0, h1, h2, h3, Option.bind_eq_bind, Option.bind_some]
    refine congrArg some (Vector.ext fun i hi => ?_)
    match i, hi with
    | 0, _ | 1, _ | 2, _ | 3, _ => rfl

/-- `frameOf` answers exactly when all four words are finite. -/
theorem frameOf_isSome (id : Byte) (v : Vector Word 4) : (frameOf id v).isSome = allFinite v := by
  have h0 := quant_isSome v[0]
  have h1 := quant_isSome v[1]
  have h2 := quant_isSome v[2]
  have h3 := quant_isSome v[3]
  simp only [frameOf, quantAll, allFinite, Option.isSome_map, ← h0, ← h1, ← h2, ← h3]
  rcases quant v[0] with _ | e0 <;> rcases quant v[1] with _ | e1 <;>
    rcases quant v[2] with _ | e2 <;> rcases quant v[3] with _ | e3 <;> rfl

theorem frameOf_none_iff (id : Byte) (v : Vector Word 4) : frameOf id v = none ↔ allFinite v = false := by
  have h := frameOf_isSome id v
  cases hq : frameOf id v <;> simp_all

theorem frameOf_some_of_finite (id : Byte) {v : Vector Word 4} (h : allFinite v = true) :
    ∃ F, frameOf id v = some F := by
  have := frameOf_isSome id v
  rw [h] at this
  exact Option.isSome_iff_exists.mp this

/-- A frame that was built is the assembly of its four quantized values. -/
theorem frameOf_eq_some {id : Byte} {v : Vector Word 4} {F : Frame} (h : frameOf id v = some F) :
    ∃ E, quantAll v = some E ∧ F = assemble id E := by
  simpa [frameOf, eq_comm] using h

/-- The bytes of an assembled frame, in offset order. -/
theorem assemble_toList (id : Byte) (E : Vector EncodedNumber 4) :
    (assemble id E).toList = (frameBody id E).toList ++ [csum (frameBody id E).toList 14] := by
  simp [assemble, Vector.toList_push]

/-- Offset 13 of an assembled frame is the checksum of the frame itself (R123, R126). -/
theorem assemble_csum (id : Byte) (E : Vector EncodedNumber 4) :
    csum (assemble id E).toList 14 = (assemble id E)[13] := by
  have hl : (frameBody id E).toList.length = 13 := by simp
  simp only [csum, assemble_toList]
  rw [List.take_append_of_le_length (by simp)]
  simp [assemble, csum]

end Sys2Proof.Machine
end

