-- ==== Sys2Proof/Laws/State.lean ====
section
/-! SUPPORT. One lemma per field per named update of the state, and what a step can do at the request queue. -/

namespace Sys2Proof.Machine

variable (s : State) (F : Frame) (rs : List Request) (w : Nat)

@[simp] theorem txWrite_requests : (txWrite F s).requests = s.requests := rfl
@[simp] theorem txWrite_results : (txWrite F s).results = s.results := rfl
@[simp] theorem txWrite_verdict : (txWrite F s).verdict = s.verdict := rfl
@[simp] theorem txWrite_txHistory : (txWrite F s).txHistory = s.txHistory ++ [F] := rfl
@[simp] theorem txWrite_refusalMark : (txWrite F s).refusalMark = s.refusalMark := rfl

@[simp] theorem present_requests : (present rs s).requests = s.requests ++ rs := rfl
@[simp] theorem present_results : (present rs s).results = s.results := rfl
@[simp] theorem present_verdict : (present rs s).verdict = s.verdict := rfl
@[simp] theorem present_txHistory : (present rs s).txHistory = s.txHistory := rfl
@[simp] theorem present_refusalMark : (present rs s).refusalMark = s.refusalMark := rfl

@[simp] theorem presentTableWord_requests :
    (presentTableWord w s).requests = requestOfTableWord w :: s.requests := rfl
@[simp] theorem presentTableWord_results : (presentTableWord w s).results = s.results := rfl
@[simp] theorem presentTableWord_verdict : (presentTableWord w s).verdict = s.verdict := rfl
@[simp] theorem presentTableWord_txHistory : (presentTableWord w s).txHistory = s.txHistory := rfl
@[simp] theorem presentTableWord_refusalMark : (presentTableWord w s).refusalMark = s.refusalMark := rfl

@[simp] theorem reset_requests : State.reset.requests = [] := rfl
@[simp] theorem reset_results : State.reset.results = Results.empty := rfl
@[simp] theorem reset_verdict : State.reset.verdict = none := rfl
@[simp] theorem reset_txHistory : State.reset.txHistory = [] := rfl
@[simp] theorem reset_refusalMark : State.reset.refusalMark = false := rfl

/-- A done step is a next state: the ports written, the verdict, and nothing else. -/
theorem done_eq (r : Results) : done r s = .next { s with results := r, verdict := some .done } := rfl

/-- A refused step is a next state: no port holds a value, the mark is set, and nothing else changes. -/
theorem refuse_eq (why : RefusalReason) :
    refuse why s = .next { s with results := Results.empty, verdict := some (.refused why), refusalMark := true } :=
  rfl

theorem takeRequest_nil (h : s.requests = []) : takeRequest s = none := by
  simp [takeRequest, h]

theorem takeRequest_cons {r : Request} {rest : List Request} (h : s.requests = r :: rest) :
    takeRequest s = some (r, { s with requests := rest }) := by
  simp [takeRequest, h]

end Sys2Proof.Machine
end

