-- ==== Sys2Proof/Laws/Exec.lean ====
section
/-! SUPPORT. What performing one operation can do, said once: it is done or it is refused, always as a next state. -/

namespace Sys2Proof.Machine

variable (s : State) {w : Word} {id : Byte} {v : Vector Word 4} {e : EncodedNumber} {F : Frame}

theorem exec_encNum_some (h : quant w = some e) :
    exec (.encNum w) s = done { Results.empty with enc := some e } s := by
  simp only [exec, execEncNum, h]

theorem exec_encNum_none (h : quant w = none) : exec (.encNum w) s = refuse .nonFiniteInput s := by
  simp only [exec, execEncNum, h]

theorem exec_encFrame_some (h : frameOf id v = some F) :
    exec (.encFrame id v) s = done { Results.empty with frame := some F } s := by
  simp only [exec, execEncFrame, h]

theorem exec_encFrame_none (h : frameOf id v = none) : exec (.encFrame id v) s = refuse .nonFiniteInput s := by
  simp only [exec, execEncFrame, h]

theorem exec_checksum_inRange {n : BitVec 4} (pkt : Vector Byte 14) (h : lengthInRange n = true) :
    exec (.checksum n pkt) s = done { Results.empty with csum := some (csum pkt.toList n.toNat) } s := by
  simp only [exec, execChecksum, h, if_true]

theorem exec_checksum_outOfRange {n : BitVec 4} (pkt : Vector Byte 14) (h : lengthInRange n = false) :
    exec (.checksum n pkt) s = refuse .lengthOutOfRange s := by
  simp only [exec, execChecksum, h, Bool.false_eq_true, if_false]

theorem exec_transmit_some (h : frameOf id v = some F) :
    exec (.transmit id v) s = done { Results.empty with tx := some F } (txWrite F s) := by
  simp only [exec, execTransmit, h]

theorem exec_transmit_none (h : frameOf id v = none) : exec (.transmit id v) s = refuse .nonFiniteInput s := by
  simp only [exec, execTransmit, h]

/-- The frame each operation leaves: a done step changes the result ports, the verdict and, for TRANSMIT, one event of
`TX`; a refused step sets the mark and clears the ports. Every outcome of `exec` is one of these. -/
theorem exec_cases (i : Instr) :
    (i.wellFormed = true ∧ ∃ r ev, exec i s = .next
        { s with results := r, verdict := some .done, txHistory := s.txHistory ++ ev }) ∨
    (i.wellFormed = false ∧ ∃ why, exec i s = refuse why s) := by
  cases i with
  | encNum w =>
    cases h : isFinite w with
    | true =>
      obtain ⟨e, he⟩ := quant_some_of_finite h
      exact .inl ⟨h, _, [], by rw [exec_encNum_some s he, done_eq, List.append_nil]⟩
    | false => exact .inr ⟨h, _, exec_encNum_none s ((quant_none_iff w).mpr h)⟩
  | encFrame id v =>
    cases h : allFinite v with
    | true =>
      obtain ⟨F, hF⟩ := frameOf_some_of_finite id h
      exact .inl ⟨h, _, [], by rw [exec_encFrame_some s hF, done_eq, List.append_nil]⟩
    | false => exact .inr ⟨h, _, exec_encFrame_none s ((frameOf_none_iff id v).mpr h)⟩
  | checksum n pkt =>
    cases h : lengthInRange n with
    | true => exact .inl ⟨h, _, [], by rw [exec_checksum_inRange s pkt h, done_eq, List.append_nil]⟩
    | false => exact .inr ⟨h, _, exec_checksum_outOfRange s pkt h⟩
  | transmit id v =>
    cases h : allFinite v with
    | true =>
      obtain ⟨F, hF⟩ := frameOf_some_of_finite id h
      exact .inl ⟨h, _, [F], by rw [exec_transmit_some s hF, done_eq, txWrite]⟩
    | false => exact .inr ⟨h, _, exec_transmit_none s ((frameOf_none_iff id v).mpr h)⟩

/-- A step with a request presented performs its operation on the state with that request consumed. -/
theorem step_of_request {s : State} {r : Request} {rest : List Request} (h : s.requests = r :: rest) :
    step s = exec (decode r) { s with requests := rest } := by
  simp only [step, takeRequest_cons s h]

/-- A step either has no request to perform and changes nothing, or performs the first one. -/
theorem step_cases :
    (s.requests = [] ∧ step s = .next s) ∨
    ∃ r rest, s.requests = r :: rest ∧ step s = exec (decode r) { s with requests := rest } := by
  cases h : s.requests with
  | nil => exact .inl ⟨rfl, by simp [step, takeRequest_nil s h, idle]⟩
  | cons r rest => exact .inr ⟨r, rest, rfl, step_of_request h⟩

theorem core_run_zero : Sys2Proof.core.run 0 s = .next s := rfl

/-- A run of the host's interface, unfolded by one step of this machine. -/
theorem core_run_succ {s t : State} (k : Nat) (h : step s = .next t) :
    Sys2Proof.core.run (k + 1) s = Sys2Proof.core.run k t := by
  have hs : Sys2Proof.core.step s = .next t := h
  simp only [Host.Core.run, hs]

end Sys2Proof.Machine
end

