-- ==== Sys2Proof/Laws/PerInstr.lean ====
section
/-! SUPPORT. Decoding an encoded operation gives it back, one lemma per constructor. -/

namespace Sys2Proof.Laws.RoundTrip

/-- Whatever the other ports carried, the decoder reads back the operation that was presented (R60, R61, R33). -/
def Statement (i : Instr) : Prop := ∀ bg : Request, decode (encodeOn bg i) = i

theorem encNum (v0 : Word) : Statement (.encNum v0) := fun bg => by
  simp [decode, encodeOn, opcode]

theorem encFrame (id : Byte) (v : Vector Word 4) : Statement (.encFrame id v) := fun bg => by
  simp [decode, encodeOn, opcode]

theorem checksum (n : BitVec 4) (pkt : Vector Byte 14) : Statement (.checksum n pkt) := fun bg => by
  simp [decode, encodeOn, opcode]

theorem transmit (id : Byte) (v : Vector Word 4) : Statement (.transmit id v) := fun bg => by
  simp [decode, encodeOn, opcode]

end Sys2Proof.Laws.RoundTrip
end

