-- ==== Sys2Proof/Laws/Value.lean ====
section
/-! SUPPORT. The parts of a finite word carry its exact value, and the integer part and the fraction stay in range. -/

namespace Sys2Proof.Machine

/-- The value of a finite word, from its parts (R63). -/
theorem floatValue_of_unpack {w : Word} {p : FloatParts} (h : unpack w = some p) :
    floatValue w = (if p.sign then -1 else 1) * ((p.sig : ℚ) * 2 ^ p.x) := by
  unfold unpack at h
  split at h
  · rename_i hfin
    split at h
    · rename_i he
      cases h
      simp [floatValue, he]
    · rename_i he
      cases h
      simp [floatValue, he]
  · cases h

/-- Taking the absolute value discards the sign bit and nothing else (R91). -/
theorem absValue_of_unpack {w : Word} {p : FloatParts} (h : unpack w = some p) :
    absValue w = (p.sig : ℚ) * 2 ^ p.x := by
  have hn : (0 : ℚ) ≤ (p.sig : ℚ) * 2 ^ p.x := by positivity
  rw [absValue, floatValue_of_unpack h, abs_mul, abs_of_nonneg hn]
  split <;> simp

/-- The bound of R98: the fraction is at most 99. -/
theorem fraction_le (p : FloatParts) : fraction p ≤ 99 := by
  unfold fraction
  split
  · decide
  · rename_i j _
    have h : p.sig % 2 ^ (j + 1) < 2 ^ (j + 1) := Nat.mod_lt _ (by positivity)
    rw [Nat.shiftRight_eq_div_pow]
    have : p.sig % 2 ^ (j + 1) * Config.scale / 2 ^ (j + 1) < 100 := by
      rw [Nat.div_lt_iff_lt_mul (by positivity)]
      simp only [Config.scale]
      omega
    omega

end Sys2Proof.Machine
end

