-- ==== Sys2Proof/Tests/Slice0.lean ====
section
/-! SUPPORT. The model's own tests: words written out from 30_encoding.md, vectors of 95_test_vectors.md (its numbers stand
in the comments), the contract's smoke tests, and for every obligation with hypotheses a state and operands that meet
them. -/

namespace Sys2Proof.Tests

open Sys2Proof.Machine

/-- The state right after reset in which the host presents one request. -/
def probe (r : Request) : State := present [r] State.reset

/-- The next state of an outcome. -/
def nextOf (o : Host.Outcome State Fault Refusal) : Option State :=
  match o with
  | .next s => some s
  | _ => none

/-- The result ports, the transmit history and the mark a step leaves. -/
def seen (o : Host.Outcome State Fault Refusal) : Option (Results × List Frame × Bool) :=
  (nextOf o).map fun s => (s.results, s.txHistory, s.refusalMark)

/-- `1.5, -2.25, 0.0, 100.1` (F1). -/
def floatsF1 : Vector Word 4 := #v[0x3FC00000, 0xC0100000, 0x00000000, 0x42C83333]

/-- The frame of F1. -/
def frameF1 : Frame := #v[0x07, 0x00, 0x01, 0x32, 0x00, 0x02, 0x99, 0x00, 0x00, 0x80, 0x00, 0x64, 0x09, 0xC2]

/-- The EncodedNumbers of F1. -/
def numbersF1 : Vector EncodedNumber 4 :=
  #v[⟨0x00, 0x01, 0x32⟩, ⟨0x00, 0x02, 0x99⟩, ⟨0x00, 0x00, 0x80⟩, ⟨0x00, 0x64, 0x09⟩]

/-- The packet of K6, the frame of F1 with a zeroed slot. -/
def pktK6 : Vector Byte 14 := frameF1.set 13 0x00

/-- A state in which a TRANSMIT of F1 was just done. -/
def afterF1 : State :=
  { State.reset with
    results := { Results.empty with tx := some frameF1 }, verdict := some .done, txHistory := [frameF1] }

/-! ### Decoding: the words of R61 and of R63, written out from the spec -/

theorem test_decode_00_is_encNum :
    decode { Request.zero with op := 0b00, v := #v[0xC0100000, 9, 9, 9], id := 9, n := 9 } = .encNum 0xC0100000 := by decide
theorem test_decode_01_is_encFrame :
    decode { Request.zero with op := 0b01, id := 7, v := floatsF1, n := 9 } = .encFrame 7 floatsF1 := by decide
theorem test_decode_10_is_checksum :
    decode { Request.zero with op := 0b10, n := 14, pkt := pktK6, id := 9 } = .checksum 14 pktK6 := by decide
theorem test_decode_11_is_transmit :
    decode { Request.zero with op := 0b11, id := 7, v := floatsF1, n := 9 } = .transmit 7 floatsF1 := by decide

/-- The fields of `99.99` = `0x42C7FAE1`, worked in 95_test_vectors.md: `s = 0`, `e = 133`, `m = 0x47FAE1`. -/
theorem test_float_fields :
    floatSign 0x42C7FAE1 = false ∧ floatExp 0x42C7FAE1 = 133#8 ∧ floatMant 0x42C7FAE1 = 0x47FAE1#23 := by decide

/-- The widths of R6 are those of the types (a slice keeps its whole value). -/
theorem test_parameters :
    Config.frameLen = 1 + Config.nval * Config.encLen + 1 ∧ (0 : Byte) = (0 : BitVec Config.idWidth) ∧
    (0 : Byte) = (0 : BitVec Config.csWidth) ∧ (0 : Word) = (0 : BitVec Config.floatWidth) ∧
    opcode (.encNum 0) = (0 : BitVec Config.opWidth) ∧ Config.magWidth = 16 ∧ Config.fracWidth = 7 := by decide

theorem test_withFetchWord_runs_transmit :
    (nextOf (step (State.reset.withFetchWord 8 0b11))).map (·.txHistory) =
      some [#v[0x00, 0x00, 0x00, 0x80, 0x00, 0x00, 0x80, 0x00, 0x00, 0x80, 0x00, 0x00, 0x80, 0x00]] := by decide

/-! ### WellFormed: every check refuses an ill-formed term -/

theorem test_wellFormed_refuses_nan : (Instr.encNum 0x7FC00000).wellFormed = false := by decide
theorem test_wellFormed_refuses_each_frame_word :
    (Instr.encFrame 7 (floatsF1.set 0 0x7F800000)).wellFormed = false ∧
    (Instr.encFrame 7 (floatsF1.set 1 0x7FC00000)).wellFormed = false ∧
    (Instr.transmit 7 (floatsF1.set 2 0x7F800001)).wellFormed = false ∧
    (Instr.transmit 7 (floatsF1.set 3 0xFF800000)).wellFormed = false := by decide
theorem test_wellFormed_refuses_lengths :
    (Instr.checksum 0 pktK6).wellFormed = false ∧ (Instr.checksum 15 pktK6).wellFormed = false ∧
    (Instr.checksum 1 pktK6).wellFormed = true ∧ (Instr.checksum 14 pktK6).wellFormed = true := by decide

/-! ### One step each, from 95_test_vectors.md -/

/-- Q50: `65537.25` wraps to 1, and the fraction uses the unwrapped integer part. -/
theorem test_encNum_wraps :
    seen (step (probe { Request.zero with op := 0b00, v := #v[0x478000A0, 0, 0, 0] })) =
      some ({ Results.empty with enc := some ⟨0x00, 0x01, 0x19⟩ }, [], false) := by decide
/-- Q29: `-273.15`, big-endian magnitude, sign flag beside the fraction. -/
theorem test_encNum_negative :
    seen (step (probe { Request.zero with op := 0b00, v := #v[0xC3889333, 0, 0, 0] })) =
      some ({ Results.empty with enc := some ⟨0x01, 0x11, 0x8E⟩ }, [], false) := by decide
/-- F6. -/
theorem test_encFrame_boundaries :
    seen (step (probe { Request.zero with
        op := 0b01, id := 255, v := #v[0x477FFF80, 0x47800000, 0xC77FFFFD, 0x3F7FFFEF] })) =
      some ({ Results.empty with frame := some #v[0xFF, 0xFF, 0xFF, 0x32, 0x00, 0x00, 0x00, 0xFF, 0xFF, 0xE2, 0x00,
        0x00, 0x63, 0x72] }, [], false) := by decide
/-- F12: an infinity in the last place. -/
theorem test_encFrame_refused :
    seen (step (probe { Request.zero with op := 0b01, id := 7, v := floatsF1.set 3 0xFF800000 })) =
      some (Results.empty, [], true) := by decide
/-- K9: thirteen bytes of `0xFF`, the largest sum. -/
theorem test_checksum_largest :
    seen (step (probe { Request.zero with op := 0b10, n := 14, pkt := #v[0xFF, 0xFF, 0xFF, 0xFF, 0xFF, 0xFF, 0xFF, 0xFF,
        0xFF, 0xFF, 0xFF, 0xFF, 0xFF, 0xFF] })) =
      some ({ Results.empty with csum := some 0xF3 }, [], false) := by decide
/-- K4: `1+2+3+4`, the 5 is the slot. -/
theorem test_checksum_excludes_slot :
    seen (step (probe { Request.zero with op := 0b10, n := 5, pkt := #v[1, 2, 3, 4, 5, 0, 0, 0, 0, 0, 0, 0, 0, 0] })) =
      some ({ Results.empty with csum := some 0x0A }, [], false) := by decide
/-- T2: a second identical event, after T1. -/
theorem test_transmit_appends :
    seen (step (present [{ Request.zero with op := 0b11, id := 7, v := floatsF1 }] afterF1)) =
      some ({ Results.empty with tx := some frameF1 }, [frameF1, frameF1], false) := by decide
/-- T3: refused, `TX` unchanged, the mark set. -/
theorem test_transmit_refused :
    seen (step (probe { Request.zero with op := 0b11, id := 7, v := floatsF1.set 1 0x7F800000 })) =
      some (Results.empty, [], true) := by decide

/-! ### Witnesses: operands that meet the hypotheses of each obligation -/

theorem witness_ResetLeavesTheBlockIdle : afterF1.requests = [] := rfl

theorem witness_StepPerformsTheDecodedRequest : (probe Request.zero).requests = Request.zero :: [] := rfl

theorem witness_StepWithoutRequestChangesNothing : State.reset.requests = [] := rfl

theorem witness_DecodeFollowsTheOpcodeMap :
    (Request.zero.op = 0b00#2) ∧ ({ Request.zero with op := 0b01 } : Request).op = 0b01#2 ∧
    ({ Request.zero with op := 0b10 } : Request).op = 0b10#2 ∧ ({ Request.zero with op := 0b11 } : Request).op = 0b11#2 ∧
    Request.zero.op = ({ Request.zero with id := 1 } : Request).op := by decide

/-- Two requests that differ in the ports the operation does not use, for each operation; for CHECKSUM in the
slot and beyond. -/
theorem witness_UnusedPortsChangeNothing :
    (let r : Request := { Request.zero with v := #v[1, 0, 0, 0] }
     let r' : Request := { Request.zero with v := #v[1, 2, 3, 4], id := 9, n := 3 }
     r.op = r'.op ∧ r.op = 0b00#2 ∧ r.v[0] = r'.v[0]) ∧
    (let r : Request := { Request.zero with op := 0b11, id := 7, v := floatsF1 }
     let r' : Request := { Request.zero with op := 0b11, id := 7, v := floatsF1, n := 3, pkt := pktK6 }
     r.op = r'.op ∧ (r.op = 0b01#2 ∨ r.op = 0b11#2) ∧ r.id = r'.id ∧ r.v = r'.v) ∧
    (let r : Request := { Request.zero with op := 0b10, n := 14, pkt := pktK6 }
     let r' : Request := { Request.zero with op := 0b10, n := 14, pkt := frameF1, id := 1 }
     r.op = r'.op ∧ r.op = 0b10#2 ∧ r.n = r'.n ∧ ∀ i < 13, r.pkt[i]? = r'.pkt[i]?) := by decide

theorem witness_EncNumMeetsTheRationalDefinition :
    floatExp 0x7F7FFFFF ≠ 255#8 ∧ floatExp 0x00000000 ≠ 255#8 ∧ floatExp 0x7F800000 = 255#8 := by decide

theorem witness_EncNumRefusesNonFinite : floatExp 0x7F800001 = 255#8 ∧ floatExp 0xFF800000 = 255#8 := by decide

theorem witness_SignFlagMarksNonPositiveInput : floatExp 0x80000000 ≠ 255#8 := by decide

theorem witness_MagnitudeWrapsSilently :
    floatExp 0x47800000 ≠ 255#8 ∧ (0x47800000, 0x00, 0x00, 0) ∈
      ([(0x477FFF80, 0xFF, 0xFF, 50), (0x47800000, 0x00, 0x00, 0)] : List (Word × Byte × Byte × Byte)) := by decide

theorem witness_FractionNeverReachesOneHundred : floatExp 0xBF7FFFFF ≠ 255#8 := by decide

theorem witness_InputClassesAreTreatedAsTabulated :
    classify 0x00000000 = .posZero ∧ classify 0x80000000 = .negZero ∧ classify 0x007FFFFF = .subnormal ∧
    classify 0x00800000 = .normal ∧ classify 0x7F800000 = .infinity ∧ classify 0x7F800001 = .nan := by decide

/-- Zero, the smallest subnormal, and the largest word below 0.01 (Q15). -/
theorem witness_ZerosAndTinyValuesEncodeAsZeroBytes :
    (floatExp 0x80000000 ≠ 255#8 ∧ absValue 0x80000000 = 0) ∧
    (floatExp 0x00000001 = 0#8 ∧ floatMant 0x00000001 ≠ 0#23) ∧
    (floatExp 0x3C23D70A ≠ 255#8 ∧ 0 < absValue 0x3C23D70A ∧ absValue 0x3C23D70A < 1 / 100) := by
  rw [absValue_of_unpack (w := 0x80000000) (p := ⟨true, 0, -149⟩) (by decide),
    absValue_of_unpack (w := 0x3C23D70A) (p := ⟨false, 10737418, -30⟩) (by decide)]
  refine ⟨⟨by decide, by norm_num⟩, by decide, by decide, by norm_num, by norm_num⟩

/-- `2^23` (Q55) and `2^39` (Q60), which also meets the bound with `j = 16`. -/
theorem witness_LargeValuesLoseFractionThenMagnitude :
    (floatExp 0x4B000000 ≠ 255#8 ∧ (2 : ℚ) ^ 23 ≤ absValue 0x4B000000) ∧
    (floatExp 0x53000000 ≠ 255#8 ∧ (2 : ℚ) ^ 39 ≤ absValue 0x53000000 ∧ (2 : ℚ) ^ (23 + 16) ≤ absValue 0x53000000) := by
  rw [absValue_of_unpack (w := 0x4B000000) (p := ⟨false, 8388608, 0⟩) (by decide),
    absValue_of_unpack (w := 0x53000000) (p := ⟨false, 8388608, 16⟩) (by decide)]
  refine ⟨⟨by decide, by norm_num⟩, by decide, by norm_num, by norm_num⟩

/-- The largest value below 65536 (Q45). -/
theorem witness_EncodingIsAccurateToOneHundredth :
    floatExp 0x477FFFFF ≠ 255#8 ∧ absValue 0x477FFFFF < 65536 := by
  rw [absValue_of_unpack (w := 0x477FFFFF) (p := ⟨false, 16777215, -8⟩) (by decide)]
  exact ⟨by decide, by norm_num⟩

/-- The same word, and zero. -/
theorem witness_ReconstructionIsWithinOneHundredth :
    (floatExp 0x477FFFFF ≠ 255#8 ∧ absValue 0x477FFFFF < 65536) ∧
    (floatExp 0x00000000 ≠ 255#8 ∧ absValue 0x00000000 < 65536 ∧ floatValue 0x00000000 = 0) := by
  rw [absValue_of_unpack (w := 0x00000000) (p := ⟨false, 0, -149⟩) (by decide),
    floatValue_of_unpack (w := 0x00000000) (p := ⟨false, 0, -149⟩) (by decide)]
  exact ⟨witness_EncodingIsAccurateToOneHundredth, by decide, by norm_num, by norm_num⟩

theorem witness_EncFrameFillsTheWireTable :
    (∀ k : Fin 4, floatExp floatsF1[k] ≠ 255#8) ∧ ∃ k : Fin 4, floatExp (floatsF1.set 3 0xFF800000)[k] = 255#8 := by decide

theorem witness_MagnitudeIsBigEndianInTheFrame : ∀ k : Fin 4, floatExp floatsF1[k] ≠ 255#8 := by decide

theorem witness_FrameHasFourteenBytesAndItsId : allFinite floatsF1 = true := by decide

/-- F1 is produced; shared by the statements about a produced frame. -/
theorem encFrame_produces_F1 (s : State) : ∃ t, exec (.encFrame 7 floatsF1) s = .next t ∧
    t.results.frame = some frameF1 :=
  ⟨_, exec_encFrame_some s (by decide), rfl⟩

theorem witness_ProducedFrameVerifies : ∃ t, exec (.encFrame 7 floatsF1) State.reset = .next t ∧
    t.results.frame = some frameF1 := encFrame_produces_F1 _

/-- The same operands, and operands that differ in `v[3]` only. -/
theorem witness_FrameDependsOnItsOperandsAlone :
    (∃ t, exec (.encFrame 7 floatsF1) State.reset = .next t ∧ t.results.frame = some frameF1) ∧
    (∃ t F, exec (.encFrame 7 (floatsF1.set 3 0x3F800000)) afterF1 = .next t ∧ t.results.frame = some F) ∧
    (∀ j : Fin 4, j ≠ 3 → floatsF1[j] = (floatsF1.set 3 0x3F800000)[j]) ∧ 9 < 13 ∧ 9 < 1 + 3 * (3 : Fin 4).val :=
  ⟨encFrame_produces_F1 _, ⟨_, _, exec_encFrame_some _ (F := #v[0x07, 0x00, 0x01, 0x32, 0x00, 0x02, 0x99, 0x00, 0x00, 0x80,
    0x00, 0x01, 0x00, 0x56]) (by decide), rfl⟩, by decide, by decide, by decide⟩

theorem witness_OneNonFiniteWordRefusesTheFrame :
    floatExp (floatsF1.set 0 0x7F800000)[(0 : Fin 4)] = 255#8 ∧
    floatExp (floatsF1.set 3 0x7FC00000)[(3 : Fin 4)] = 255#8 := by decide

theorem witness_FrameBuiltByPartsEqualsEncFrame :
    (∀ k : Fin 4, ∃ t, exec (.encNum floatsF1[k]) State.reset = .next t ∧ t.results.enc = some numbersF1[k]) ∧
    ∃ t, exec (.checksum 14 #v[0x07, numbersF1[0].high, numbersF1[0].low, numbersF1[0].signFrac,
      numbersF1[1].high, numbersF1[1].low, numbersF1[1].signFrac, numbersF1[2].high, numbersF1[2].low,
      numbersF1[2].signFrac, numbersF1[3].high, numbersF1[3].low, numbersF1[3].signFrac, 0x55]) State.reset = .next t ∧
      t.results.csum = some 0xC2 := by
  refine ⟨fun k => ?_, _, exec_checksum_inRange _ _ (by decide), by decide⟩
  match k with
  | 0 | 1 | 2 | 3 => exact ⟨_, exec_encNum_some _ (by decide), rfl⟩

theorem witness_LargestFrameSumIs3203 : ∃ t, exec (.encFrame 7 floatsF1) afterF1 = .next t ∧
    t.results.frame = some frameF1 := encFrame_produces_F1 _

theorem witness_ChecksumIsTheSumModulo256 :
    (1 ≤ (1#4).toNat ∧ (1#4).toNat ≤ 14) ∧ (1 ≤ (14#4).toNat ∧ (14#4).toNat ≤ 14) ∧ (0#4 = 0#4 ∨ 0#4 = 15#4) ∧
    (15#4 = 0#4 ∨ 15#4 = 15#4) ∧ (1 ≤ 14 ∧ 14 ≤ frameF1.toList.length) := by decide

theorem witness_AccumulatorWidthDoesNotMatter : 8 ≤ 8 ∧ 1 ≤ (14#4).toNat ∧ (14#4).toNat ≤ 14 := by decide

/-- K6 and K8 agree below the slot; a byte that can change stands at the first index read and at the last, for the
shortest `n` that reads one and the longest. -/
theorem witness_ChecksumReadsOnlyBelowTheSlot :
    (∀ i < 13, i + 1 < (14#4).toNat ∧ pktK6[i]? = frameF1[i]?) ∧
    ((2#4).toNat ≤ 14 ∧ (0 : Fin 14).val + 1 < (2#4).toNat ∧ (0x55 : Byte) ≠ pktK6[(0 : Fin 14)]) ∧
    ((14#4).toNat ≤ 14 ∧ (12 : Fin 14).val + 1 < (14#4).toNat ∧ (0x55 : Byte) ≠ pktK6[(12 : Fin 14)]) := by decide

theorem witness_ChecksumLengthMustBeInRange : (0#4 = 0#4 ∨ 0#4 = 15#4) ∧ (15#4 = 0#4 ∨ 15#4 = 15#4) := by decide

/-- The frame of F1 verifies; K13 changes one byte of it, K11 permutes two, K12 compensates, and the last changes two bytes
without balance, leaving the slot. -/
theorem witness_ChecksumDetectsExactlyUnbalancedErrors :
    byteSum (frameF1.toList.take 13) % 256 = frameF1[13].toNat ∧
    (∃ t, exec (.checksum 14 (frameF1.set 3 0x22)) State.reset = .next t ∧ t.results.csum = some 0xB2) ∧
    (0x22 ≠ frameF1[(3 : Fin 14)]) ∧
    (∃ t, exec (.checksum 14 ((frameF1.set 1 0x01).set 2 0x00)) State.reset = .next t ∧ t.results.csum = some 0xC2) ∧
    (((frameF1.set 1 0x01).set 2 0x00).toList.take 13).Perm (frameF1.toList.take 13) ∧
    (∃ t, exec (.checksum 14 ((frameF1.set 2 0x02).set 5 0x01)) State.reset = .next t ∧ t.results.csum = some 0xC2) ∧
    ((byteSum (((frameF1.set 2 0x02).set 5 0x01).toList.take 13) : ℤ) - byteSum (frameF1.toList.take 13)) % 256 = 0 ∧
    (∃ t, exec (.checksum 14 ((frameF1.set 1 0x01).set 2 0x03)) State.reset = .next t ∧ t.results.csum = some 0xC5) ∧
    ((frameF1.set 1 0x01).set 2 0x03)[13] = frameF1[13] ∧
    ((byteSum (((frameF1.set 1 0x01).set 2 0x03).toList.take 13) : ℤ) - byteSum (frameF1.toList.take 13)) % 256 ≠ 0 := by
  refine ⟨by decide, ⟨_, exec_checksum_inRange _ _ (by decide), by decide⟩, by decide,
    ⟨_, exec_checksum_inRange _ _ (by decide), by decide⟩, by decide,
    ⟨_, exec_checksum_inRange _ _ (by decide), by decide⟩, by decide,
    ⟨_, exec_checksum_inRange _ _ (by decide), by decide⟩, by decide, by decide⟩

theorem witness_TransmitAppendsTheFrameAsOneEvent :
    (∀ k : Fin 4, floatExp floatsF1[k] ≠ 255#8) ∧ ∃ k : Fin 4, floatExp (floatsF1.set 0 0x7FC00000)[k] = 255#8 := by decide

theorem witness_RefusedTransmitWritesNothing : allFinite (floatsF1.set 1 0x7F800000) = false := by decide

theorem witness_TransmitIsNotIdempotentInItsEffect :
    (∀ id v, Instr.encNum 0x3FC00000 ≠ .transmit id v) ∧ (∀ id v, Instr.encFrame 7 floatsF1 ≠ .transmit id v) ∧
    (∀ id v, Instr.checksum 14 pktK6 ≠ .transmit id v) ∧ allFinite floatsF1 = true :=
  ⟨fun _ _ h => (nomatch h), fun _ _ h => (nomatch h), fun _ _ h => (nomatch h), by decide⟩

theorem witness_EveryRequestIsDoneOrRefusedForItsReason :
    (Instr.checksum 14 pktK6).wellFormed = true ∧ (Instr.checksum 15 pktK6).wellFormed = false ∧
    (Instr.encNum 0x7F7FFFFF).wellFormed = true ∧ (Instr.encNum 0x7F800000).wellFormed = false := by decide

theorem witness_OperationsTouchOnlyWhatTheyWrite :
    (∃ t, exec (.encFrame 7 floatsF1) State.reset = .next t) ∧ (Instr.encFrame 7 floatsF1).wellFormed = true ∧
    opcode (.encFrame 7 floatsF1) ≠ 0b00#2 ∧ opcode (.encNum 0) ≠ 0b01#2 ∧ opcode (.encNum 0) ≠ 0b10#2 ∧
    opcode (.encNum 0) ≠ 0b11#2 :=
  ⟨⟨_, exec_encFrame_some _ (F := frameF1) (by decide)⟩, by decide, by decide, by decide, by decide, by decide⟩

/-- A marked state that steps, and an unmarked one that a refused request marks. -/
theorem witness_RefusalMarkIsSticky :
    (∃ s t : State, step s = .next t ∧ s.refusalMark = true) ∧
    ∃ s t : State, step s = .next t ∧ s.refusalMark = false ∧ t.refusalMark = true :=
  ⟨⟨{ State.reset with refusalMark := true }, _, rfl, rfl⟩,
    ⟨probe { Request.zero with op := 0b10, n := 15 }, _, rfl, rfl, rfl⟩⟩

/-- A state with an event in `TX` and on `tx` meets the invariant, and steps. -/
theorem witness_EveryStepKeepsTheInvariant : afterF1.Inv ∧ ∃ t, step (present [Request.zero] afterF1) = .next t := by
  have hl : frameLegal frameF1 = true := by decide
  refine ⟨⟨?_, ?_, ?_, ?_, ?_, fun _ => rfl, ?_⟩, _, rfl⟩
  · intro F h
    rw [List.mem_singleton.mp h]
    exact hl
  · intro e h; cases h
  · intro F h; cases h
  · intro F h; cases h; rfl
  · intro h; cases h
  · intro why h; cases h

theorem witness_RefusedRequestLeavesOnlyTheMark :
    (decode { Request.zero with op := 0b11, v := floatsF1.set 1 0x7FC00000 }).wellFormed = false ∧
    [Request.zero] ≠ [] := by decide

end Sys2Proof.Tests
end

section
/-! The integer part of the procedure of R98 is the floor of the rational definition, so the magnitudes agree. -/

namespace Sys2Proof.Machine

/-- R98 computes the floor of R92: a left shift is an exact product, a right shift a floored quotient. -/
theorem intPart_eq_floor (p : FloatParts) : intPart p = ⌊(p.sig : ℚ) * 2 ^ p.x⌋₊ := by
  obtain ⟨sign, sig, x⟩ := p
  cases x with
  | ofNat j =>
    have hval : (sig : ℚ) * 2 ^ (Int.ofNat j) = ((sig * 2 ^ j : ℕ) : ℚ) := by simp
    rw [hval, Nat.floor_natCast]
    exact Nat.shiftLeft_eq sig j
  | negSucc j =>
    have hval : (sig : ℚ) * 2 ^ (Int.negSucc j) = (sig : ℚ) / ((2 ^ (j + 1) : ℕ) : ℚ) := by
      rw [zpow_negSucc, Nat.cast_pow, Nat.cast_ofNat, div_eq_mul_inv]
    rw [hval, Nat.floor_div_eq_div]
    exact Nat.shiftRight_eq_div_pow sig (j + 1)

/-- The magnitude the quantizer computes is the rational one (R92). -/
theorem magnitude_of_unpack {w : Word} {p : FloatParts} (h : unpack w = some p) :
    magnitude p = BitVec.ofNat 16 (refMagnitude w) := by
  rw [magnitude, intPart_eq_floor, ← absValue_of_unpack h, refMagnitude]
  exact BitVec.eq_of_toNat_eq (by simp)

/-- The first two bytes of an EncodedNumber are the halves of the rational magnitude, high half first (R40, R68). -/
theorem quant_magnitude_bytes {w : Word} {e : EncodedNumber} (h : quant w = some e) :
    e.high = (BitVec.ofNat 16 (refMagnitude w)).extractLsb 15 8 ∧
      e.low = (BitVec.ofNat 16 (refMagnitude w)).extractLsb 7 0 := by
  obtain ⟨p, hp, rfl⟩ := Option.map_eq_some_iff.mp h
  rw [← magnitude_of_unpack hp]
  exact ⟨rfl, rfl⟩

end Sys2Proof.Machine
end

section
/-! Where the assembler puts what: the four groups of the wire table (R46, R121), by the index of the value. -/

namespace Sys2Proof.Machine

theorem isFinite_iff (w : Word) : isFinite w = true ↔ floatExp w ≠ 255#8 := by
  simp [isFinite]

/-- The contract of a frame's operands, by the index of the value. -/
theorem allFinite_iff (v : Vector Word 4) : allFinite v = true ↔ ∀ k : Fin 4, floatExp v[k] ≠ 255#8 := by
  simp [allFinite, isFinite_iff, and_assoc, Fin.forall_fin_succ]

theorem quant_of_quantAll {v : Vector Word 4} {E : Vector EncodedNumber 4} (h : quantAll v = some E) (k : Fin 4) :
    quant v[k] = some E[k] := by
  obtain ⟨h0, h1, h2, h3⟩ := (quantAll_eq_some v E).mp h
  match k with
  | 0 => exact h0
  | 1 => exact h1
  | 2 => exact h2
  | 3 => exact h3

/-- The group of value `k` stands at offsets `1+3k` to `3+3k` (R121). -/
theorem assemble_group (id : Byte) (E : Vector EncodedNumber 4) (k : Fin 4) :
    (assemble id E)[1 + 3 * k.val]? = some E[k].high ∧ (assemble id E)[2 + 3 * k.val]? = some E[k].low ∧
      (assemble id E)[3 + 3 * k.val]? = some E[k].signFrac := by
  match k with
  | 0 | 1 | 2 | 3 => exact ⟨rfl, rfl, rfl⟩

/-- With four finite words ENCFRAME is done, and its frame is the assembly of their EncodedNumbers (R120). -/
theorem exec_encFrame_of_finite (id : Byte) {v : Vector Word 4} (s : State)
    (h : ∀ k : Fin 4, floatExp v[k] ≠ 255#8) :
    ∃ E, (∀ k : Fin 4, quant v[k] = some E[k]) ∧ exec (.encFrame id v) s = .next
      { s with results := { Results.empty with frame := some (assemble id E) }, verdict := some .done } := by
  obtain ⟨F, hF⟩ := frameOf_some_of_finite id ((allFinite_iff v).mpr h)
  obtain ⟨E, hE, rfl⟩ := frameOf_eq_some hF
  exact ⟨E, quant_of_quantAll hE, by rw [exec_encFrame_some s hF, done_eq]⟩

/-- Settles O20: the group of value `k` begins with the two halves of its magnitude. -/
theorem magnitudeIsBigEndianInTheFrame : Obligations.MagnitudeIsBigEndianInTheFrame := by
  intro id v s hfin
  obtain ⟨E, hE, hexec⟩ := exec_encFrame_of_finite id s hfin
  refine ⟨assemble id E, hexec, fun k => ?_⟩
  obtain ⟨hhigh, hlow, -⟩ := assemble_group id E k
  obtain ⟨hmagHigh, hmagLow⟩ := quant_magnitude_bytes (hE k)
  exact ⟨hmagHigh ▸ hhigh, hmagLow ▸ hlow⟩

end Sys2Proof.Machine
end

section
/-! The three bytes of the packing, as numbers (R68, R69). -/

namespace Sys2Proof.Machine

theorem packNumber_high_toNat (mag : BitVec 16) (sf : Bool) (frac : BitVec 7) :
    (packNumber mag sf frac).high.toNat = mag.toNat / 256 := by
  have hbyte : mag.toNat / 256 < 256 := by have := mag.isLt; omega
  calc (packNumber mag sf frac).high.toNat
      = mag.toNat >>> 8 % 256 := BitVec.extractLsb_toNat 15 8 mag
    _ = mag.toNat / 256 := by rw [Nat.shiftRight_eq_div_pow, Nat.mod_eq_of_lt hbyte]

theorem packNumber_low_toNat (mag : BitVec 16) (sf : Bool) (frac : BitVec 7) :
    (packNumber mag sf frac).low.toNat = mag.toNat % 256 :=
  BitVec.extractLsb_toNat 7 0 mag

/-- The flag is placed above the seven bits of the fraction: the bitwise form of R69. -/
theorem packNumber_signFrac_toNat (mag : BitVec 16) (sf : Bool) (frac : BitVec 7) :
    (packNumber mag sf frac).signFrac.toNat = sf.toNat <<< 7 ||| frac.toNat := by
  have happend : (packNumber mag sf frac).signFrac.toNat = (BitVec.ofBool sf).toNat <<< 7 ||| frac.toNat :=
    BitVec.toNat_append (BitVec.ofBool sf) frac
  rw [happend, BitVec.toNat_ofBool]

/-- The two forms of R69 agree because a 7-bit fraction does not reach bit 7. -/
theorem shiftLeft_seven_or_toNat (b : ℕ) (frac : BitVec 7) : b <<< 7 ||| frac.toNat = 128 * b + frac.toNat := by
  rw [← Nat.shiftLeft_add_eq_or_of_lt frac.isLt, Nat.shiftLeft_eq, Nat.mul_comm]

/-- Settles O18: each byte by its own lemma; the magnitude is put together again from quotient and remainder. -/
theorem packingPlacesEveryField : Obligations.PackingPlacesEveryField := by
  intro mag sf frac
  have hhigh := packNumber_high_toNat mag sf frac
  have hlow := packNumber_low_toNat mag sf frac
  have hor := packNumber_signFrac_toNat mag sf frac
  refine ⟨hhigh, hlow, ?_, hor.trans (shiftLeft_seven_or_toNat sf.toNat frac), hor⟩
  rw [hhigh, hlow, Nat.div_add_mod]

end Sys2Proof.Machine
end

section
/-! What ENCNUM leaves for a finite word, field by field: the sign flag and the magnitude of the three bytes are those of the
word's parts (R92, R94, R98). -/

namespace Sys2Proof.Machine

/-- A quantized word is done, and only `enc` holds a value. -/
theorem exec_encNum_of_quant {w : Word} {e : EncodedNumber} (s : State) (h : quant w = some e) :
    exec (.encNum w) s =
      .next { s with results := { Results.empty with enc := some e }, verdict := some .done } := by
  rw [exec_encNum_some s h, done_eq]

theorem quant_of_unpack {w : Word} {p : FloatParts} (h : unpack w = some p) : quant w = some (quantize p) := by
  rw [quant, h, Option.map_some]

theorem exists_unpack_of_finite {w : Word} (h : floatExp w ≠ 255#8) : ∃ p, unpack w = some p := by
  rw [← Option.isSome_iff_exists, unpack_isSome, isFinite_iff]
  exact h

theorem packNumber_signFlag (mag : BitVec 16) (sf : Bool) (frac : BitVec 7) :
    (packNumber mag sf frac).signFlag = sf := by
  have hflag : (packNumber mag sf frac).signFlag = (BitVec.ofBool sf ++ frac).getLsbD 7 := rfl
  rw [hflag, BitVec.getLsbD_append]
  simp

theorem quantize_signFlag (p : FloatParts) : (quantize p).signFlag = signFlag p :=
  packNumber_signFlag _ _ _

theorem quantize_magnitude (p : FloatParts) : (quantize p).magnitude = (magnitude p).toNat := by
  obtain ⟨-, -, hmag, -⟩ := packingPlacesEveryField (magnitude p) (signFlag p) (BitVec.ofNat 7 (fraction p))
  exact hmag.symm

/-- The sign and the significand of a finite word's parts, in bits: only a zero exponent lets the significand vanish, since
a normal word has the hidden bit (R63). -/
theorem sign_and_sig_of_unpack {w : Word} {p : FloatParts} (h : unpack w = some p) :
    p.sign = floatSign w ∧ (p.sig = 0 ↔ floatExp w = 0#8 ∧ floatMant w = 0#23) := by
  have hmant : (floatMant w).toNat = 0 ↔ floatMant w = 0#23 := (BitVec.toNat_eq (y := 0#23)).symm
  unfold unpack at h
  split at h
  · split at h
    next hexp =>
      cases h
      exact ⟨rfl, by simp [hexp, hmant]⟩
    next hexp =>
      cases h
      exact ⟨rfl, by simp [hexp]⟩
  · cases h

/-- The bit form of the sign flag (R94). -/
theorem signFlag_iff_bits {w : Word} {p : FloatParts} (h : unpack w = some p) :
    signFlag p = true ↔ floatSign w = true ∨ (floatExp w = 0#8 ∧ floatMant w = 0#23) := by
  obtain ⟨hsign, hsig⟩ := sign_and_sig_of_unpack h
  rw [signFlag, Bool.or_eq_true, beq_iff_eq, hsign, hsig]

/-- The sign flag marks the non-positive values: a set sign bit negates a non-negative product, and a clear one leaves it, so
that it must vanish (R94). -/
theorem signFlag_iff_floatValue_nonpos {w : Word} {p : FloatParts} (h : unpack w = some p) :
    signFlag p = true ↔ floatValue w ≤ 0 := by
  have hpow : (0 : ℚ) < 2 ^ p.x := by positivity
  rw [floatValue_of_unpack h, signFlag]
  cases p.sign with
  | true =>
    have hneg : (-1 : ℚ) * (p.sig * 2 ^ p.x) ≤ 0 := by
      rw [neg_one_mul, neg_nonpos]
      positivity
    simpa using hneg
  | false =>
    have hzero : (p.sig : ℚ) * 2 ^ p.x ≤ 0 ↔ p.sig = 0 := by
      rw [← not_lt, mul_pos_iff_of_pos_right hpow, Nat.cast_pos, Nat.not_lt, Nat.le_zero]
    simpa using hzero.symm

/-- Settles O10: the flag in byte 2 is the one computed from the parts, which has both readings; the two instances are
evaluated. -/
theorem signFlagMarksNonPositiveInput : Obligations.SignFlagMarksNonPositiveInput := by
  refine ⟨fun w s hfin => ?_, fun s => ⟨exec_encNum_of_quant s (by decide), exec_encNum_of_quant s (by decide)⟩⟩
  obtain ⟨p, hp⟩ := exists_unpack_of_finite hfin
  refine ⟨quantize p, exec_encNum_of_quant s (quant_of_unpack hp), ?_, ?_⟩
  · rw [quantize_signFlag, signFlag_iff_floatValue_nonpos hp]
  · rw [quantize_signFlag, signFlag_iff_bits hp]

/-- Settles O11: the two bytes hold the 16-bit magnitude, which is the rational one; the rule's instances are evaluated. -/
theorem magnitudeWrapsSilently : Obligations.MagnitudeWrapsSilently := by
  constructor
  · intro w s hfin
    obtain ⟨p, hp⟩ := exists_unpack_of_finite hfin
    refine ⟨quantize p, exec_encNum_of_quant s (quant_of_unpack hp), ?_⟩
    rw [quantize_magnitude, magnitude_of_unpack hp, BitVec.toNat_ofNat, refMagnitude]
    exact Nat.mod_mod _ _
  · intro s
    exact List.forall_iff_forall_mem.mp
      ⟨exec_encNum_of_quant s (by decide), exec_encNum_of_quant s (by decide), exec_encNum_of_quant s (by decide),
        exec_encNum_of_quant s (by decide), exec_encNum_of_quant s (by decide)⟩

end Sys2Proof.Machine
end

section
/-! A produced frame is the assembly of its operands: its length, its first byte and the checksum it carries (R122, R125,
R126). -/

namespace Sys2Proof.Machine

/-- A frame left on the port by ENCFRAME is `Frame(id, v0, v1, v2, v3)`: a refused step leaves none. -/
theorem frameOf_of_exec_encFrame {id : Byte} {v : Vector Word 4} {s t : State} {F : Frame}
    (hexec : exec (.encFrame id v) s = .next t) (hframe : t.results.frame = some F) : frameOf id v = some F := by
  cases hF : frameOf id v with
  | some F' =>
    rw [exec_encFrame_some s hF, done_eq] at hexec
    cases hexec
    exact hframe
  | none =>
    rw [exec_encFrame_none s hF, refuse_eq] at hexec
    cases hexec
    exact absurd hframe (Option.some_ne_none F).symm

/-- The identifier stands first, unmodified (R122). -/
theorem assemble_head (id : Byte) (E : Vector EncodedNumber 4) : (assemble id E).toList.head? = some id := by
  rw [assemble_toList, List.head?_append]
  rfl

/-- Settles O21: the frame is an assembly, which begins with the identifier. -/
theorem frameHasFourteenBytesAndItsId : Obligations.FrameHasFourteenBytesAndItsId := by
  intro id v s hfin
  obtain ⟨E, -, hexec⟩ := exec_encFrame_of_finite id s ((allFinite_iff v).mp hfin)
  exact ⟨assemble id E, hexec, Vector.length_toList, assemble_head id E⟩

/-- Settles O22: CHECKSUM recomputes the sum that the assembler stored at offset 13, since neither reads the slot. -/
theorem producedFrameVerifies : Obligations.ProducedFrameVerifies := by
  intro id v s t F hexec hframe
  obtain ⟨E, -, rfl⟩ := frameOf_eq_some (frameOf_of_exec_encFrame hexec hframe)
  have hslot : csum (assemble id E).toList 14 = (assemble id E)[13] := assemble_csum id E
  constructor
  · intro s'
    rw [← hslot]
    exact exec_checksum_inRange s' (assemble id E) (by decide)
  · rw [← hslot, csum_toNat]

end Sys2Proof.Machine
end

section
/-! Decoding and encoding a request (R60, R61, R33): the four code points, one lemma each way per operation. -/

namespace Sys2Proof

theorem op_cases (o : BitVec 2) : o = 0b00#2 ∨ o = 0b01#2 ∨ o = 0b10#2 ∨ o = 0b11#2 := by
  revert o
  decide

variable {r : Request}

theorem decode_of_op_00 (h : r.op = 0b00#2) : decode r = .encNum r.v[0] := by
  simp [decode, h]

theorem decode_of_op_01 (h : r.op = 0b01#2) : decode r = .encFrame r.id r.v := by
  simp [decode, h]

theorem decode_of_op_10 (h : r.op = 0b10#2) : decode r = .checksum r.n r.pkt := by
  simp [decode, h]

theorem decode_of_op_11 (h : r.op = 0b11#2) : decode r = .transmit r.id r.v := by
  simp [decode, h]

/-- The operation select is the code point of the decoded operation. -/
theorem opcode_decode (r : Request) : opcode (decode r) = r.op := by
  obtain h | h | h | h := op_cases r.op
  · rw [decode_of_op_00 h, h, opcode]
  · rw [decode_of_op_01 h, h, opcode]
  · rw [decode_of_op_10 h, h, opcode]
  · rw [decode_of_op_11 h, h, opcode]

theorem decode_encodeOn (bg : Request) (i : Instr) : decode (encodeOn bg i) = i := by
  cases i with
  | encNum v0 => exact Laws.RoundTrip.encNum v0 bg
  | encFrame id v => exact Laws.RoundTrip.encFrame id v bg
  | checksum n pkt => exact Laws.RoundTrip.checksum n pkt bg
  | transmit id v => exact Laws.RoundTrip.transmit id v bg

/-- The operand ports the operation uses are driven with the values they had: for ENCNUM this stores `v[0]` into itself. -/
theorem encodeOn_decode (r : Request) : encodeOn r (decode r) = r := by
  have hop := opcode_decode r
  obtain h | h | h | h := op_cases r.op
  · rw [decode_of_op_00 h] at hop ⊢
    simp only [encodeOn, hop, Vector.set_getElem_self]
  · rw [decode_of_op_01 h] at hop ⊢
    simp only [encodeOn, hop]
  · rw [decode_of_op_10 h] at hop ⊢
    simp only [encodeOn, hop]
  · rw [decode_of_op_11 h] at hop ⊢
    simp only [encodeOn, hop]

/-- Settles O5: the two directions of the round trip. -/
theorem decodeInvertsEncode : Obligations.DecodeInvertsEncode :=
  ⟨decode_encodeOn, encodeOn_decode⟩

/-- Settles O4: the four code points; the code point of what is decoded is `op` itself. -/
theorem decodeFollowsTheOpcodeMap : Obligations.DecodeFollowsTheOpcodeMap := by
  refine ⟨fun r => ⟨decode_of_op_00, decode_of_op_01, decode_of_op_10, decode_of_op_11⟩, fun r r' h => ?_,
    fun nbits w => Option.some_ne_none _⟩
  rw [opcode_decode, opcode_decode, h]

/-- Settles O6: fixed words, decoded by evaluation. -/
theorem tableWordsDecode : Obligations.TableWordsDecode := by
  unfold Obligations.TableWordsDecode
  decide

end Sys2Proof
end

section
/-! What performing an operation writes, apart from the state it is performed in (R11, R20, R22, R171). -/

namespace Sys2Proof.Machine

/-- The result ports an operation within its contract writes, and the events it appends to `TX` (R22, R31). -/
inductive Writes : Instr → Results → List Frame → Prop
  | encNum {w : Word} {e : EncodedNumber} (h : quant w = some e) :
      Writes (.encNum w) { Results.empty with enc := some e } []
  | encFrame {id : Byte} {v : Vector Word 4} {F : Frame} (h : frameOf id v = some F) :
      Writes (.encFrame id v) { Results.empty with frame := some F } []
  | checksum {n : BitVec 4} {pkt : Vector Byte 14} (h : lengthInRange n = true) :
      Writes (.checksum n pkt) { Results.empty with csum := some (csum pkt.toList n.toNat) } []
  | transmit {id : Byte} {v : Vector Word 4} {F : Frame} (h : frameOf id v = some F) :
      Writes (.transmit id v) { Results.empty with tx := some F } [F]

/-- The one reason for which an operation is refused (R171). -/
def refusalReason : Instr → RefusalReason
  | .checksum _ _ => .lengthOutOfRange
  | .encNum _ | .encFrame _ _ | .transmit _ _ => .nonFiniteInput

variable {i : Instr} {r : Results} {ev : List Frame}

theorem exists_writes (h : i.wellFormed = true) : ∃ r ev, Writes i r ev := by
  cases i with
  | encNum w =>
    obtain ⟨e, he⟩ := quant_some_of_finite h
    exact ⟨_, _, .encNum he⟩
  | encFrame id v =>
    obtain ⟨F, hF⟩ := frameOf_some_of_finite id h
    exact ⟨_, _, .encFrame hF⟩
  | checksum n pkt => exact ⟨_, _, .checksum h⟩
  | transmit id v =>
    obtain ⟨F, hF⟩ := frameOf_some_of_finite id h
    exact ⟨_, _, .transmit hF⟩

/-- Whatever the state, a done step leaves what the operation writes. -/
theorem exec_of_writes (h : Writes i r ev) (s : State) :
    exec i s = .next { s with results := r, verdict := some .done, txHistory := s.txHistory ++ ev } := by
  cases h with
  | encNum h => rw [exec_encNum_some s h, done_eq, List.append_nil]
  | encFrame h => rw [exec_encFrame_some s h, done_eq, List.append_nil]
  | checksum h => rw [exec_checksum_inRange s _ h, done_eq, List.append_nil]
  | transmit h => rw [exec_transmit_some s h, done_eq, txWrite]

theorem exec_of_not_wellFormed (h : i.wellFormed = false) (s : State) : exec i s = refuse (refusalReason i) s := by
  cases i with
  | encNum w => exact exec_encNum_none s ((quant_none_iff w).mpr h)
  | encFrame id v => exact exec_encFrame_none s ((frameOf_none_iff id v).mpr h)
  | checksum n pkt => exact exec_checksum_outOfRange s pkt h
  | transmit id v => exact exec_transmit_none s ((frameOf_none_iff id v).mpr h)

/-- `exec_cases` with what is written and the reason named, both independent of the state. -/
theorem writes_or_refused (i : Instr) :
    (i.wellFormed = true ∧ ∃ r ev, Writes i r ev) ∨
      (i.wellFormed = false ∧ ∀ s, exec i s = refuse (refusalReason i) s) := by
  cases h : i.wellFormed with
  | true => exact .inl ⟨rfl, exists_writes h⟩
  | false => exact .inr ⟨rfl, exec_of_not_wellFormed h⟩

/-- An operation writes one result port. -/
theorem Writes.count_eq_one (h : Writes i r ev) : r.count = 1 := by
  cases h <;> rfl

/-- A `tx` port carries the one event that was appended. -/
theorem Writes.events_of_tx {F : Frame} (h : Writes i r ev) (htx : r.tx = some F) : ev = [F] := by
  cases h with
  | transmit h => rw [Option.some.inj htx]
  | encNum h | encFrame h | checksum h => cases htx

/-- Only TRANSMIT makes an event. -/
theorem Writes.events_eq_nil (h : Writes i r ev) (hi : opcode i ≠ 0b11#2) : ev = [] := by
  cases h with
  | transmit h => exact absurd rfl hi
  | encNum h | encFrame h | checksum h => rfl

/-- An appended event stands on `tx`. -/
theorem Writes.events_cases (h : Writes i r ev) : ev = [] ∨ ∃ F, ev = [F] ∧ r.tx = some F := by
  cases h with
  | transmit h => exact .inr ⟨_, rfl, rfl⟩
  | encNum h | encFrame h | checksum h => exact .inl rfl

/-- A port the operation does not write holds no value (R22, D15). -/
theorem Writes.other_ports_empty (h : Writes i r ev) :
    (opcode i ≠ 0b00#2 → r.enc = none) ∧ (opcode i ≠ 0b01#2 → r.frame = none) ∧
      (opcode i ≠ 0b10#2 → r.csum = none) ∧ (opcode i ≠ 0b11#2 → r.tx = none) := by
  cases h with
  | encNum h => exact ⟨(absurd rfl ·), fun _ => rfl, fun _ => rfl, fun _ => rfl⟩
  | encFrame h => exact ⟨fun _ => rfl, (absurd rfl ·), fun _ => rfl, fun _ => rfl⟩
  | checksum h => exact ⟨fun _ => rfl, fun _ => rfl, (absurd rfl ·), fun _ => rfl⟩
  | transmit h => exact ⟨fun _ => rfl, fun _ => rfl, fun _ => rfl, (absurd rfl ·)⟩

/-- Settles O38: what is written, or the refusal, does not depend on the state. -/
theorem noOperationObservesAnEarlierOne : Obligations.NoOperationObservesAnEarlierOne := by
  intro i s s'
  obtain ⟨-, r, ev, hw⟩ | ⟨-, href⟩ := writes_or_refused i
  · exact ⟨_, _, ev, exec_of_writes hw s, exec_of_writes hw s', rfl, rfl, rfl, rfl⟩
  · exact ⟨_, _, [], href s, href s', rfl, rfl, (List.append_nil _).symm, (List.append_nil _).symm⟩

/-- Settles O35: the two outcomes of an operation, by its contract. -/
theorem everyRequestIsDoneOrRefusedForItsReason : Obligations.EveryRequestIsDoneOrRefusedForItsReason := by
  intro i s
  obtain ⟨hwf, r, ev, hw⟩ | ⟨hwf, href⟩ := writes_or_refused i
  · refine ⟨_, exec_of_writes hw s, fun _ => ⟨rfl, rfl⟩, fun hill => ?_⟩
    rw [hwf] at hill
    cases hill
  · refine ⟨_, href s, fun hwell => ?_, fun _ => ⟨?_, rfl⟩⟩
    · rw [hwf] at hwell
      cases hwell
    · cases i <;> rfl

/-- Settles O37: the ports and events of a done operation are those it writes; a refused one writes none. -/
theorem operationsTouchOnlyWhatTheyWrite : Obligations.OperationsTouchOnlyWhatTheyWrite := by
  intro i s t hexec
  obtain ⟨-, r, ev, hw⟩ | ⟨hwf, href⟩ := writes_or_refused i
  · rw [exec_of_writes hw s] at hexec
    cases hexec
    obtain ⟨henc, hframe, hcsum, htx⟩ := hw.other_ports_empty
    refine ⟨rfl, fun _ => rfl, henc, hframe, hcsum, htx, fun hop => ?_, ?_⟩
    · rw [hw.events_eq_nil hop, List.append_nil]
    · obtain rfl | ⟨F, rfl, hF⟩ := hw.events_cases
      · exact .inl (List.append_nil _)
      · exact .inr ⟨F, rfl, hF⟩
  · rw [href s, refuse_eq] at hexec
    cases hexec
    refine ⟨rfl, fun hwell => ?_, fun _ => rfl, fun _ => rfl, fun _ => rfl, fun _ => rfl, fun _ => rfl, .inl rfl⟩
    rw [hwf] at hwell
    cases hwell

theorem opcode_ne_transmit (h : ∀ id v, i ≠ .transmit id v) : opcode i ≠ 0b11#2 := by
  cases i with
  | transmit id v => exact absurd rfl (h id v)
  | encNum w | encFrame id v | checksum n pkt => simp [opcode]

/-- Settles O34: an operation writes the same twice, and only TRANSMIT's writes reach `TX`. -/
theorem transmitIsNotIdempotentInItsEffect : Obligations.TransmitIsNotIdempotentInItsEffect := by
  constructor
  · intro i s hi
    obtain ⟨-, r, ev, hw⟩ | ⟨-, href⟩ := writes_or_refused i
    · cases hw.events_eq_nil (opcode_ne_transmit hi)
      exact ⟨_, _, exec_of_writes hw s, exec_of_writes hw _, rfl, rfl, by simp, by simp⟩
    · exact ⟨_, _, href s, href _, rfl, rfl, rfl, rfl⟩
  · intro id v s hfin
    obtain ⟨F, hF⟩ := frameOf_some_of_finite id hfin
    exact ⟨F, _, _, hF, exec_of_writes (.transmit hF) s, exec_of_writes (.transmit hF) _, rfl,
      List.append_assoc _ _ _, rfl⟩

end Sys2Proof.Machine
end

section
/-! One step of the machine, and runs over the pending requests (R10, R20, R31, R48, R175). -/

namespace Sys2Proof.Machine

/-- Settles O2: the model's own equation for a step. -/
theorem stepPerformsTheDecodedRequest : Obligations.StepPerformsTheDecodedRequest :=
  fun _ _ _ h => step_of_request h

theorem step_of_no_request {s : State} (h : s.requests = []) : step s = .next s := by
  simp only [step, takeRequest_nil s h, idle]

/-- Settles O3: with nothing taken from the ports the step is idle. -/
theorem stepWithoutRequestChangesNothing : Obligations.StepWithoutRequestChangesNothing :=
  fun _ h => step_of_no_request h

/-- Settles O1: the reset values, and the one pending request performed in two states. -/
theorem resetLeavesTheBlockIdle : Obligations.ResetLeavesTheBlockIdle := by
  refine ⟨rfl, rfl, rfl, rfl, rfl, step_of_no_request rfl, fun r s hs => ?_⟩
  have hreset : (present [r] State.reset).requests = [r] := rfl
  have hpresent : (present [r] s).requests = [r] := by simp [hs]
  rw [step_of_request hreset, step_of_request hpresent]
  obtain ⟨t, t', -, ht, ht', hres, hver, -⟩ := noOperationObservesAnEarlierOne (decode r) _ _
  exact ⟨t, t', ht, ht', hres, hver⟩

/-- Settles O36: both outcomes of an operation, and the idle step, are next states. -/
theorem everyStepAnswersANextState : Obligations.EveryStepAnswersANextState := by
  intro s
  obtain ⟨-, hidle⟩ | ⟨r, rest, -, hstep⟩ := step_cases s
  · exact ⟨s, hidle⟩
  · obtain ⟨t, ht, -⟩ := everyRequestIsDoneOrRefusedForItsReason (decode r) { s with requests := rest }
    exact ⟨t, hstep.trans ht⟩

/-- The mark after an operation: as it was, or set by a refusal (R175). -/
theorem refusalMark_of_exec {i : Instr} {s t : State} (h : exec i s = .next t) :
    t.refusalMark = (s.refusalMark || !i.wellFormed) := by
  obtain ⟨hwf, r, ev, hexec⟩ | ⟨hwf, why, hexec⟩ := exec_cases s i
  · rw [hexec] at h
    cases h
    simp [hwf]
  · rw [hexec, refuse_eq] at h
    cases h
    simp [hwf]

/-- Settles O39: the mark is only ever joined with "outside the contract". -/
theorem refusalMarkIsSticky : Obligations.RefusalMarkIsSticky := by
  intro s t hstep
  obtain ⟨-, hidle⟩ | ⟨r, rest, hreq, hexec⟩ := step_cases s
  · cases hidle.symm.trans hstep
    exact ⟨id, fun hclear hset => absurd (hclear.symm.trans hset) Bool.false_ne_true⟩
  · have hmark := refusalMark_of_exec (hexec.symm.trans hstep)
    constructor
    · intro hset
      rw [hmark, hset, Bool.true_or]
    · intro hclear hset
      rw [hmark, hclear, Bool.false_or, Bool.not_eq_true'] at hset
      exact ⟨r, rest, hreq, hset⟩

/-- `sentFrame` is the event the request's operation makes, if it is done. -/
theorem Writes.events_eq_sentFrame {q : Request} {r : Results} {ev : List Frame} (h : Writes (decode q) r ev) :
    ev = (sentFrame q).toList := by
  unfold sentFrame
  generalize decode q = i at h
  cases h with
  | transmit h => simp only [h, Option.toList_some]
  | encNum h | encFrame h | checksum h => rfl

theorem sentFrame_of_not_wellFormed {q : Request} (h : (decode q).wellFormed = false) : sentFrame q = none := by
  unfold sentFrame
  split
  next id v hq =>
    rw [hq] at h
    exact (frameOf_none_iff id v).mpr h
  · rfl

/-- Performing a request leaves the pending ones, appends the frame it sends, if any, and joins its refusal to the mark. -/
theorem exec_decode_next (q : Request) (s : State) : ∃ t, exec (decode q) s = .next t ∧ t.requests = s.requests ∧
    t.txHistory = s.txHistory ++ (sentFrame q).toList ∧
    t.refusalMark = (s.refusalMark || !(decode q).wellFormed) := by
  obtain ⟨-, r, ev, hw⟩ | ⟨hwf, href⟩ := writes_or_refused (decode q)
  · have hexec := exec_of_writes hw s
    exact ⟨_, hexec, rfl, by rw [hw.events_eq_sentFrame], refusalMark_of_exec hexec⟩
  · refine ⟨_, href s, rfl, ?_, refusalMark_of_exec (href s)⟩
    rw [sentFrame_of_not_wellFormed hwf, Option.toList_none, List.append_nil]

/-- A run over the first of the pending requests: the rest is still pending, `TX` has grown by the frames sent, in order, and
the mark has joined every refusal. -/
theorem core_run_prefix (qs rest : List Request) (s : State) (hs : s.requests = qs ++ rest) :
    ∃ t : State, Sys2Proof.core.run qs.length s = .next t ∧ t.requests = rest ∧
      t.txHistory = s.txHistory ++ qs.filterMap sentFrame ∧
      t.refusalMark = (s.refusalMark || qs.any fun q => !(decode q).wellFormed) := by
  induction qs generalizing s with
  | nil => exact ⟨s, rfl, hs, by simp, by simp⟩
  | cons q qs ih =>
    obtain ⟨s', hexec, hreq, htx, hmark⟩ := exec_decode_next q { s with requests := qs ++ rest }
    obtain ⟨t, hrun, htreq, httx, htmark⟩ := ih s' hreq
    refine ⟨t, ?_, htreq, ?_, ?_⟩
    · rw [List.length_cons, core_run_succ qs.length ((step_of_request hs).trans hexec), hrun]
    · rw [httx, htx, List.append_assoc, List.filterMap_cons]
      cases sentFrame q <;> rfl
    · rw [htmark, hmark, List.any_cons, Bool.or_assoc]

/-- Settles O42: the run over all the pending requests. -/
theorem historyIsTheFramesSentInOrder : Obligations.HistoryIsTheFramesSentInOrder := fun s =>
  core_run_prefix s.requests [] s (List.append_nil _).symm

theorem core_run_add {s t : State} {m : ℕ} (k : ℕ) (h : Sys2Proof.core.run m s = .next t) :
    Sys2Proof.core.run (m + k) s = Sys2Proof.core.run k t := by
  induction m generalizing s with
  | zero =>
    cases h
    rw [Nat.zero_add]
  | succ m ih =>
    obtain ⟨s', hs'⟩ := everyStepAnswersANextState s
    rw [core_run_succ m hs'] at h
    rw [Nat.succ_add, core_run_succ (m + k) hs', ih h]

/-- After a run over all the pending requests the ports and the verdict are those of the last one (R11, R22). -/
theorem core_run_last {s t : State} {rs qs : List Request} {q : Request} (hrs : rs = qs ++ [q])
    (h : Sys2Proof.core.run rs.length { s with requests := rs } = .next t) : ∃ s', exec (decode q) s' = .next t := by
  subst hrs
  obtain ⟨u, hrun, hu, -⟩ := core_run_prefix qs [q] { s with requests := qs ++ [q] } rfl
  obtain ⟨t', ht'⟩ := everyStepAnswersANextState u
  rw [List.length_append, core_run_add _ hrun, List.length_singleton, core_run_succ 0 ht', core_run_zero] at h
  exact ⟨_, (step_of_request hu).symm.trans (ht'.trans h)⟩

/-- Two steps of one operation leave the same ports and verdict. -/
theorem ports_eq_of_exec {i : Instr} {s s' t t' : State} (h : exec i s = .next t) (h' : exec i s' = .next t') :
    t.results = t'.results ∧ t.verdict = t'.verdict := by
  obtain ⟨u, u', -, hu, hu', hres, hver, -⟩ := noOperationObservesAnEarlierOne i s s'
  cases h.symm.trans hu
  cases h'.symm.trans hu'
  exact ⟨hres, hver⟩

/-- Settles O43: a refused request sends nothing, so both runs append the same frames; both end with the same last request,
unless the refused one is the last. -/
theorem refusedRequestLeavesOnlyTheMark : Obligations.RefusedRequestLeavesOnlyTheMark := by
  intro s pre post q hq
  obtain ⟨t, hrun, htreq, httx, htmark⟩ :=
    core_run_prefix (pre ++ q :: post) [] { s with requests := pre ++ q :: post } (List.append_nil _).symm
  obtain ⟨u, hrun', hureq, hutx, -⟩ :=
    core_run_prefix (pre ++ post) [] { s with requests := pre ++ post } (List.append_nil _).symm
  refine ⟨t, u, hrun, hrun', ?_, htreq, hureq, ?_, fun hpost => ?_, fun hpost => ?_⟩
  · rw [httx, hutx, List.filterMap_append, List.filterMap_append,
      List.filterMap_cons_none (sentFrame_of_not_wellFormed hq)]
  · simp [htmark, hq]
  · obtain ⟨init, l, rfl⟩ := (List.eq_nil_or_concat post).resolve_left hpost
    obtain ⟨s₁, h₁⟩ := core_run_last (qs := pre ++ q :: init) (q := l) (by simp) hrun
    obtain ⟨s₂, h₂⟩ := core_run_last (qs := pre ++ init) (q := l) (by simp) hrun'
    exact ports_eq_of_exec h₁ h₂
  · subst hpost
    obtain ⟨s', h'⟩ := core_run_last rfl hrun
    rw [exec_of_not_wellFormed hq, refuse_eq] at h'
    cases h'
    rfl

end Sys2Proof.Machine
end

section
/-! CHECKSUM (R140 to R146): the lengths it accepts, the bytes it reads, and which changes of a frame it detects. -/

namespace Sys2Proof.Machine

theorem lengthInRange_iff (n : BitVec 4) : lengthInRange n = true ↔ 1 ≤ n.toNat ∧ n.toNat ≤ 14 := by
  simp [lengthInRange]

/-- The four bits of `n` leave two lengths outside the contract (R144, D6). -/
theorem lengthInRange_eq_false_iff (n : BitVec 4) : lengthInRange n = false ↔ n = 0#4 ∨ n = 15#4 := by
  revert n
  decide

/-- CHECKSUM of a legal length is done, and only `csum` holds a value. -/
theorem exec_checksum_of_inRange {n : BitVec 4} (pkt : Vector Byte 14) (s : State) (h1 : 1 ≤ n.toNat)
    (h14 : n.toNat ≤ 14) : exec (.checksum n pkt) s = .next { s with
      results := { Results.empty with csum := some (csum pkt.toList n.toNat) }, verdict := some .done } := by
  rw [exec_checksum_inRange s pkt ((lengthInRange_iff n).mpr ⟨h1, h14⟩), done_eq]

theorem csum_eq_ofNat (B : List Byte) (n : ℕ) :
    csum B n = BitVec.ofNat 8 (byteSum (B.take (n - 1)) % 256) := by
  refine BitVec.eq_of_toNat_eq ?_
  rw [csum_toNat, BitVec.toNat_ofNat]
  exact (Nat.mod_mod _ _).symm

/-- Settles O27: the accumulator's low byte is the sum modulo 256; the other lengths are the refused ones. -/
theorem checksumIsTheSumModulo256 : Obligations.ChecksumIsTheSumModulo256 := by
  refine ⟨fun B n _ _ => csum_toNat B n, fun n pkt s => ⟨fun h1 h14 => ?_, fun hn => ?_⟩⟩
  · rw [← csum_eq_ofNat]
    exact exec_checksum_of_inRange pkt s h1 h14
  · rw [exec_checksum_outOfRange s pkt ((lengthInRange_eq_false_iff n).mpr hn), refuse_eq]

/-- Settles O30: the two clauses of O27 cover all sixteen lengths. -/
theorem checksumLengthMustBeInRange : Obligations.ChecksumLengthMustBeInRange := by
  intro n pkt s
  cases h : lengthInRange n with
  | true =>
    have hn := (lengthInRange_iff n).mp h
    have hout : ¬(n = 0#4 ∨ n = 15#4) := by
      rw [← lengthInRange_eq_false_iff, h]
      exact Bool.noConfusion
    refine ⟨_, exec_checksum_inRange s pkt h, ?_, ?_, fun hbad => absurd hbad hout⟩
    · simp [hout]
    · simp [hn]
  | false =>
    have hout := (lengthInRange_eq_false_iff n).mp h
    have hn : ¬(1 ≤ n.toNat ∧ n.toNat ≤ 14) := by
      rw [← lengthInRange_iff, h]
      exact Bool.false_ne_true
    refine ⟨_, exec_checksum_outOfRange s pkt h, ?_, ?_, fun _ => rfl⟩
    · simp [hout]
    · simpa using hn

theorem byteSum_le (bs : List Byte) : byteSum bs ≤ 255 * bs.length := by
  induction bs with
  | nil => exact le_rfl
  | cons b bs ih =>
    have hb : b.toNat < 256 := b.isLt
    simp only [byteSum, List.map_cons, List.sum_cons, List.length_cons] at ih ⊢
    omega

/-- Settles O28: 256 divides the modulus of a wider accumulator, and thirteen bytes are far below `2^32`. -/
theorem accumulatorWidthDoesNotMatter : Obligations.AccumulatorWidthDoesNotMatter := by
  intro n pkt s W hW h1 h14
  have hsum : byteSum (pkt.toList.take (n.toNat - 1)) ≤ 3315 := by
    have hlen := List.length_take_le (n.toNat - 1) pkt.toList
    have hbytes := byteSum_le (pkt.toList.take (n.toNat - 1))
    omega
  refine ⟨?_, hsum, ?_⟩
  · have hdvd : 256 ∣ 2 ^ W := pow_dvd_pow 2 hW
    rw [Nat.mod_mod_of_dvd _ hdvd, ← csum_eq_ofNat]
    exact exec_checksum_of_inRange pkt s h1 h14
  · rw [accumulate_eq, BitVec.ofNat_eq_ofNat, BitVec.zero_add, BitVec.toNat_ofNat,
      Nat.mod_eq_of_lt (hsum.trans_lt (by decide))]

/-- CHECKSUM reads the indices below `n-1` only (R141, R143, R145). -/
theorem exec_checksum_congr {n : BitVec 4} {pkt pkt' : Vector Byte 14} (s : State)
    (h : ∀ i, i + 1 < n.toNat → pkt[i]? = pkt'[i]?) : exec (.checksum n pkt) s = exec (.checksum n pkt') s := by
  have htake : pkt.toList.take (n.toNat - 1) = pkt'.toList.take (n.toNat - 1) := by
    refine List.ext_getElem? fun i => ?_
    simp only [List.getElem?_take, Vector.getElem?_toList]
    split
    next hi => exact h i (by omega)
    · rfl
  simp only [exec, execChecksum, csum_congr htake]

/-- Storing one byte that is summed moves the sum by the difference. -/
theorem byteSum_take_set (pkt : Vector Byte 14) (m : ℕ) (i : Fin 14) (b : Byte) (hi : i.val < m) :
    byteSum ((pkt.set i b).toList.take m) + pkt[i].toNat = byteSum (pkt.toList.take m) + b.toNat := by
  have hlen : i.val < (pkt.toList.take m).length := by
    rw [List.length_take, Vector.length_toList]
    exact lt_min hi i.isLt
  have hset := byteSum_set (pkt.toList.take m) i.val hlen b
  rw [List.getElem_take, Vector.getElem_toList] at hset
  rwa [Vector.toList_set, List.take_set]

/-- A changed byte that is summed changes the checksum: the difference of two bytes is no multiple of 256. -/
theorem csum_set_ne (pkt : Vector Byte 14) {n : ℕ} {i : Fin 14} {b : Byte} (hi : i.val + 1 < n) (hb : b ≠ pkt[i]) :
    csum (pkt.set i b).toList n ≠ csum pkt.toList n := by
  have hsum := byteSum_take_set pkt (n - 1) i b (by omega)
  have hbyte : b.toNat ≠ pkt[i].toNat := fun h => hb (BitVec.eq_of_toNat_eq h)
  have hlt : b.toNat < 256 := b.isLt
  have hlt' : pkt[i].toNat < 256 := pkt[i].isLt
  rw [ne_eq, csum_eq_iff]
  omega

/-- Settles O29: nothing but the indices below `n-1` is read, and each of them counts. -/
theorem checksumReadsOnlyBelowTheSlot : Obligations.ChecksumReadsOnlyBelowTheSlot := by
  intro n pkt pkt' s hagree
  refine ⟨exec_checksum_congr s hagree, fun b => ?_, fun i b h14 hi hb => ?_⟩
  · cases h : lengthInRange n with
    | false => rw [exec_checksum_outOfRange s _ h, exec_checksum_outOfRange s _ h]
    | true =>
      obtain ⟨-, h14⟩ := (lengthInRange_iff n).mp h
      refine exec_checksum_congr s fun i hi => ?_
      exact Vector.getElem?_set_ne _ (by omega)
  · have h1 : 1 ≤ n.toNat := by omega
    exact ⟨_, _, (csum_set_ne pkt hi hb).symm, exec_checksum_of_inRange pkt s h1 h14,
      exec_checksum_of_inRange (pkt.set i b) s h1 h14⟩

/-- The value CHECKSUM 14 leaves on `csum`. -/
theorem csum_of_exec_checksum {G : Frame} {s t : State} {c : Byte} (hexec : exec (.checksum 14 G) s = .next t)
    (hc : t.results.csum = some c) : c = csum G.toList 14 := by
  rw [exec_checksum_of_inRange G s (by decide) (by decide)] at hexec
  cases hexec
  exact (Option.some.inj hc).symm

/-- Settles O31: the received checksum is compared as a sum modulo 256. -/
theorem checksumDetectsExactlyUnbalancedErrors : Obligations.ChecksumDetectsExactlyUnbalancedErrors := by
  intro F G s t c hF hexec hc
  have hverifies : csum F.toList 14 = F[13] := BitVec.eq_of_toNat_eq ((csum_toNat _ _).trans hF)
  cases csum_of_exec_checksum hexec hc
  have hiff (hslot : G[13] = F[13]) : csum G.toList 14 = G[13] ↔
      byteSum (G.toList.take 13) % 256 = byteSum (F.toList.take 13) % 256 := by
    rw [hslot, ← hverifies]
    exact csum_eq_iff _ _ 14
  refine ⟨fun i b hb hG => ?_, fun hslot hperm => ?_, fun hslot => ?_⟩
  · subst hG
    by_cases hi : i.val < 13
    · have hne : csum (F.set i b).toList 14 ≠ csum F.toList 14 := csum_set_ne F (by omega) hb
      rwa [hverifies, ← Vector.getElem_set_ne (x := b) i.isLt (by decide) (by omega : i.val ≠ 13)] at hne
    · obtain rfl : i = 13 := by omega
      have hsame : csum (F.set 13 b).toList 14 = csum F.toList 14 :=
        csum_congr (by rw [Vector.toList_set]; exact List.take_set_of_le le_rfl)
      have hself : (F.set 13 b)[13] = b := Vector.getElem_set_self _
      exact fun hdetect => hb (hself.symm.trans (hdetect.symm.trans (hsame.trans hverifies)))
  · rw [eq_comm, eq_comm, hiff hslot]
    exact congrArg (· % 256) (hperm.map BitVec.toNat).sum_eq
  · rw [hiff hslot]
    omega

end Sys2Proof.Machine
end

section
/-! Ports an operation does not use (R33, D15). -/

namespace Sys2Proof.Machine

/-- Settles O7: the unused ports are dropped by the decoder, and by CHECKSUM beyond the bytes it sums. -/
theorem unusedPortsChangeNothing : Obligations.UnusedPortsChangeNothing := by
  intro s rest r r' hop h00 hframe h10
  rw [step_of_request rfl, step_of_request rfl]
  obtain h | h | h | h := op_cases r.op
  · rw [decode_of_op_00 h, decode_of_op_00 (hop ▸ h), h00 h]
  · obtain ⟨hid, hv⟩ := hframe (.inl h)
    rw [decode_of_op_01 h, decode_of_op_01 (hop ▸ h), hid, hv]
  · obtain ⟨hn, hpkt⟩ := h10 h
    rw [decode_of_op_10 h, decode_of_op_10 (hop ▸ h), exec_checksum_congr _ hpkt, hn]
  · obtain ⟨hid, hv⟩ := hframe (.inr h)
    rw [decode_of_op_11 h, decode_of_op_11 (hop ▸ h), hid, hv]

end Sys2Proof.Machine
end

section
/-! The three bytes of the rational definition (R90 to R95), field by field, and ENCNUM equal to it. -/

namespace Sys2Proof.Machine

theorem absValue_nonneg (w : Word) : 0 ≤ absValue w := abs_nonneg _

theorem refSignFlag_le_one (w : Word) : refSignFlag w ≤ 1 := by
  unfold refSignFlag
  split <;> decide

/-- R93 in bounds: the hundredths of `a` are cut off below the next one. -/
theorem refFraction_bounds (w : Word) : (⌊absValue w⌋₊ : ℚ) + refFraction w / 100 ≤ absValue w ∧
    absValue w < ⌊absValue w⌋₊ + refFraction w / 100 + 1 / 100 := by
  have hrest : 0 ≤ (absValue w - ⌊absValue w⌋₊) * 100 :=
    mul_nonneg (sub_nonneg.mpr (Nat.floor_le (absValue_nonneg w))) (by norm_num)
  have hle : (refFraction w : ℚ) ≤ (absValue w - ⌊absValue w⌋₊) * 100 := Nat.floor_le hrest
  have hlt : (absValue w - ⌊absValue w⌋₊) * 100 < refFraction w + 1 := Nat.lt_floor_add_one _
  constructor <;> linarith

theorem refFraction_le (w : Word) : refFraction w ≤ 99 := by
  obtain ⟨hle, -⟩ := refFraction_bounds w
  have hlt := Nat.lt_floor_add_one (absValue w)
  have hfrac : (refFraction w : ℚ) < 100 := by linarith
  exact Nat.le_of_lt_succ (Nat.cast_lt.mp (by exact_mod_cast hfrac))

theorem refMagnitude_lt (w : Word) : refMagnitude w < 65536 := Nat.mod_lt _ (by decide)

/-- Below 65536 nothing of the integer part is lost (R99, R104). -/
theorem refMagnitude_eq_floor {w : Word} (h : absValue w < 65536) : refMagnitude w = ⌊absValue w⌋₊ := by
  rw [refMagnitude, Nat.mod_eq_of_lt]
  exact (Nat.floor_lt (absValue_nonneg w)).mpr (by exact_mod_cast h)

theorem refEncode_high_toNat (w : Word) : (refEncode w).high.toNat = refMagnitude w / 256 := by
  have := refMagnitude_lt w
  rw [refEncode, BitVec.toNat_ofNat, Nat.mod_eq_of_lt (by omega)]

theorem refEncode_low_toNat (w : Word) : (refEncode w).low.toNat = refMagnitude w % 256 := by
  rw [refEncode, BitVec.toNat_ofNat, Nat.mod_eq_of_lt (Nat.mod_lt _ (by decide))]

theorem refEncode_signFrac_toNat (w : Word) :
    (refEncode w).signFrac.toNat = 128 * refSignFlag w + refFraction w := by
  have := refSignFlag_le_one w
  have := refFraction_le w
  rw [refEncode, BitVec.toNat_ofNat, Nat.mod_eq_of_lt (by omega)]

theorem refEncode_magnitude (w : Word) : (refEncode w).magnitude = refMagnitude w := by
  rw [EncodedNumber.magnitude, refEncode_high_toNat, refEncode_low_toNat, Nat.div_add_mod]

theorem refEncode_fraction (w : Word) : (refEncode w).fraction = refFraction w := by
  have := refFraction_le w
  rw [EncodedNumber.fraction, refEncode_signFrac_toNat]
  omega

theorem refEncode_signFlag (w : Word) : (refEncode w).signFlag = true ↔ floatValue w ≤ 0 := by
  have hfrac := refFraction_le w
  have hbit : (refEncode w).signFlag = decide (128 ≤ (refEncode w).signFrac.toNat) :=
    BitVec.msb_eq_decide (refEncode w).signFrac
  rw [hbit, decide_eq_true_iff, refEncode_signFrac_toNat, refSignFlag]
  split
  next hneg => exact ⟨fun _ => hneg, fun _ => by omega⟩
  next hpos => exact ⟨fun h => by omega, fun h => absurd h hpos⟩

/-- R98 computes the hundredths of R93: below the binary point stands `sig mod 2^k`, so that
the floored quotient is exact. -/
theorem fraction_eq_floor (p : FloatParts) :
    fraction p = ⌊((p.sig : ℚ) * 2 ^ p.x - ⌊(p.sig : ℚ) * 2 ^ p.x⌋₊) * 100⌋₊ := by
  obtain ⟨sign, sig, x⟩ := p
  cases x with
  | ofNat j =>
    have hval : (sig : ℚ) * 2 ^ (Int.ofNat j) = ((sig * 2 ^ j : ℕ) : ℚ) := by simp
    rw [hval, Nat.floor_natCast, sub_self, zero_mul, Nat.floor_zero]
    rfl
  | negSucc j =>
    have hpow : ((2 ^ (j + 1) : ℕ) : ℚ) ≠ 0 := by positivity
    have hval : (sig : ℚ) * 2 ^ (Int.negSucc j) = (sig : ℚ) / ((2 ^ (j + 1) : ℕ) : ℚ) := by
      rw [zpow_negSucc, Nat.cast_pow, Nat.cast_ofNat, div_eq_mul_inv]
    have hsplit : (sig : ℚ) = (2 ^ (j + 1) : ℕ) * (sig / 2 ^ (j + 1) : ℕ) + (sig % 2 ^ (j + 1) : ℕ) := by
      exact_mod_cast (Nat.div_add_mod sig (2 ^ (j + 1))).symm
    have hrest : ((sig : ℚ) / ((2 ^ (j + 1) : ℕ) : ℚ) - (sig / 2 ^ (j + 1) : ℕ)) * 100 =
        ((sig % 2 ^ (j + 1) * 100 : ℕ) : ℚ) / ((2 ^ (j + 1) : ℕ) : ℚ) := by
      rw [Nat.cast_mul, Nat.cast_ofNat, eq_div_iff hpow, sub_mul, sub_mul, div_mul_eq_mul_div, div_mul_cancel₀ _ hpow]
      linear_combination 100 * hsplit
    rw [hval, Nat.floor_div_eq_div, hrest, Nat.floor_div_eq_div]
    exact Nat.shiftRight_eq_div_pow _ (j + 1)

theorem fraction_of_unpack {w : Word} {p : FloatParts} (h : unpack w = some p) : fraction p = refFraction w := by
  rw [fraction_eq_floor, ← absValue_of_unpack h, refFraction]

/-- The flag of the parts is the one of the value (R94). -/
theorem signFlag_toNat_of_unpack {w : Word} {p : FloatParts} (h : unpack w = some p) :
    (signFlag p).toNat = refSignFlag w := by
  have hflag := signFlag_iff_floatValue_nonpos h
  rw [refSignFlag]
  split
  next hneg => rw [hflag.mpr hneg, Bool.toNat_true]
  next hpos => rw [Bool.eq_false_iff.mpr (mt hflag.mp hpos), Bool.toNat_false]

/-- The procedure of R98 gives the three bytes of R90. -/
theorem quantize_of_unpack {w : Word} {p : FloatParts} (h : unpack w = some p) : quantize p = refEncode w := by
  have hmag : (magnitude p).toNat = refMagnitude w := by
    rw [magnitude_of_unpack h, BitVec.toNat_ofNat, Nat.mod_eq_of_lt (refMagnitude_lt w)]
  have hfrac : (BitVec.ofNat 7 (fraction p)).toNat = refFraction w := by
    have := refFraction_le w
    rw [fraction_of_unpack h, BitVec.toNat_ofNat, Nat.mod_eq_of_lt (by omega)]
  have hhigh : (quantize p).high = (refEncode w).high := BitVec.eq_of_toNat_eq (by
    rw [quantize, packNumber_high_toNat, hmag, refEncode_high_toNat])
  have hlow : (quantize p).low = (refEncode w).low := BitVec.eq_of_toNat_eq (by
    rw [quantize, packNumber_low_toNat, hmag, refEncode_low_toNat])
  have hsignFrac : (quantize p).signFrac = (refEncode w).signFrac := BitVec.eq_of_toNat_eq (by
    rw [quantize, packNumber_signFrac_toNat, shiftLeft_seven_or_toNat, hfrac, signFlag_toNat_of_unpack h,
      refEncode_signFrac_toNat])
  exact congr (congrArg₂ EncodedNumber.mk hhigh hlow) hsignFrac

theorem quant_of_finite {w : Word} (h : floatExp w ≠ 255#8) : quant w = some (refEncode w) := by
  obtain ⟨p, hp⟩ := exists_unpack_of_finite h
  rw [quant_of_unpack hp, quantize_of_unpack hp]

theorem finite_of_quant {w : Word} {e : EncodedNumber} (h : quant w = some e) : floatExp w ≠ 255#8 := by
  rw [← isFinite_iff, ← quant_isSome, h, Option.isSome_some]

/-- A quantized word holds the bytes of the rational definition. -/
theorem eq_refEncode_of_quant {w : Word} {e : EncodedNumber} (h : quant w = some e) : e = refEncode w :=
  Option.some.inj (h.symm.trans (quant_of_finite (finite_of_quant h)))

theorem isFinite_eq_false_iff (w : Word) : isFinite w = false ↔ floatExp w = 255#8 := by
  simp [isFinite]

theorem exec_encNum_of_finite {w : Word} (s : State) (h : floatExp w ≠ 255#8) : exec (.encNum w) s =
    .next { s with results := { Results.empty with enc := some (refEncode w) }, verdict := some .done } :=
  exec_encNum_of_quant s (quant_of_finite h)

theorem exec_encNum_of_nonFinite {w : Word} (s : State) (h : floatExp w = 255#8) : exec (.encNum w) s =
    .next { s with results := Results.empty, verdict := some (.refused .nonFiniteInput), refusalMark := true } :=
  exec_encNum_none s ((quant_none_iff w).mpr ((isFinite_eq_false_iff w).mpr h))

/-- Settles O8: the quantizer's three fields are the rational ones. -/
theorem encNumMeetsTheRationalDefinition : Obligations.EncNumMeetsTheRationalDefinition :=
  fun _ s => ⟨exec_encNum_of_finite s, exec_encNum_of_nonFinite s⟩

/-- Settles O9: the refusal of O8, field by field. -/
theorem encNumRefusesNonFinite : Obligations.EncNumRefusesNonFinite :=
  fun _ s h => ⟨_, exec_encNum_of_nonFinite s h, rfl, rfl, rfl, rfl, rfl, rfl⟩

/-- Byte 2 is one the block may produce: the fraction stays below 100 (R66, R100). -/
theorem refEncode_signFracLegal (w : Word) : signFracLegal (refEncode w).signFrac = true := by
  have := refSignFlag_le_one w
  have := refFraction_le w
  simp only [signFracLegal, refEncode_signFrac_toNat, Bool.or_eq_true, Bool.and_eq_true, decide_eq_true_iff]
  omega

theorem signFracLegal_iff (b : Byte) :
    signFracLegal b = true ↔ ¬(0x64 ≤ b.toNat ∧ b.toNat ≤ 0x7F) ∧ ¬0xE4 ≤ b.toNat := by
  simp only [signFracLegal, Bool.or_eq_true, Bool.and_eq_true, decide_eq_true_iff]
  omega

/-- Settles O12: the fraction is the rational one, which is below 100. -/
theorem fractionNeverReachesOneHundred : Obligations.FractionNeverReachesOneHundred := by
  intro w s hfin
  refine ⟨refEncode w, exec_encNum_of_finite s hfin, ?_, (signFracLegal_iff _).mp (refEncode_signFracLegal w)⟩
  rw [refEncode_fraction]
  exact refFraction_le w

/-- Settles O16: `j` is the quotient the magnitude's wrap discards. -/
theorem encodingIsAccurateToOneHundredth : Obligations.EncodingIsAccurateToOneHundredth := by
  refine ⟨fun w s hfin => ⟨refEncode w, ⌊absValue w⌋₊ / 65536, exec_encNum_of_finite s hfin, ?_⟩,
    fun s => ⟨⟨0x00, 0x63, 0x62⟩, exec_encNum_of_quant s (by decide), by decide, by decide⟩⟩
  rw [refEncode_magnitude, refEncode_fraction, refMagnitude, Nat.div_add_mod]
  obtain ⟨hle, hlt⟩ := refFraction_bounds w
  refine ⟨hle, hlt, fun hsmall => Nat.div_eq_of_lt ?_⟩
  exact (Nat.floor_lt (absValue_nonneg w)).mpr (by exact_mod_cast hsmall)

/-- Below 65536 the consumer's inverse is the truncated absolute value with the sign of the value (R105). -/
theorem decodedValue_refEncode {w : Word} (h : absValue w < 65536) : (refEncode w).decodedValue =
    (if floatValue w ≤ 0 then -1 else 1) * ((⌊absValue w⌋₊ : ℚ) + refFraction w / 100) := by
  simp only [EncodedNumber.decodedValue, refEncode_signFlag, refEncode_magnitude, refEncode_fraction,
    refMagnitude_eq_floor h]

/-- Settles O17: the sign is shared, so that the error is the one of the absolute value. -/
theorem reconstructionIsWithinOneHundredth : Obligations.ReconstructionIsWithinOneHundredth := by
  intro w s hfin hsmall
  refine ⟨refEncode w, exec_encNum_of_finite s hfin, ?_⟩
  obtain ⟨hle, hlt⟩ := refFraction_bounds w
  have hd : (0 : ℚ) ≤ ⌊absValue w⌋₊ + refFraction w / 100 := by positivity
  rw [decodedValue_refEncode hsmall]
  generalize (⌊absValue w⌋₊ : ℚ) + refFraction w / 100 = d at hle hlt hd
  unfold absValue at hle hlt
  split
  next hneg =>
    rw [abs_of_nonpos hneg] at hle hlt ⊢
    rw [neg_one_mul, abs_neg, abs_of_nonneg hd, abs_lt]
    exact ⟨⟨by linarith, by linarith⟩, hle, fun hzero => by linarith⟩
  next hpos =>
    rw [abs_of_pos (not_le.mp hpos)] at hle hlt ⊢
    rw [one_mul, abs_of_nonneg hd, abs_lt]
    exact ⟨⟨by linarith, by linarith⟩, hle, fun hzero => by linarith⟩

end Sys2Proof.Machine
end

section
/-! The classes of float words (R64), and the values whose bytes vanish: zeros, tiny values (R102) and large ones (R103). -/

namespace Sys2Proof.Machine

/-- A word is its three fields (R63). -/
theorem word_eq_iff (w w' : Word) : w = w' ↔
    floatSign w = floatSign w' ∧ floatExp w = floatExp w' ∧ floatMant w = floatMant w' := by
  refine ⟨fun h => h ▸ ⟨rfl, rfl, rfl⟩, fun ⟨hsign, hexp, hmant⟩ => BitVec.eq_of_getLsbD_eq fun i hi => ?_⟩
  have hexpBit (u : Word) (k : ℕ) (hk : k < 8) : (floatExp u).getLsbD k = u.getLsbD (23 + k) := by
    simp [floatExp, hk]
  have hmantBit (u : Word) (k : ℕ) (hk : k < 23) : (floatMant u).getLsbD k = u.getLsbD k := by
    simp [floatMant, hk]
  obtain hlow | hmid | rfl : i < 23 ∨ (23 ≤ i ∧ i - 23 < 8) ∨ i = 31 := by omega
  · rw [← hmantBit w i hlow, ← hmantBit w' i hlow, hmant]
  · obtain ⟨hge, hlt⟩ := hmid
    have hbit := congrArg (BitVec.getLsbD · (i - 23)) hexp
    simpa only [hexpBit _ _ hlt, Nat.add_sub_of_le hge] using hbit
  · exact hsign

theorem classify_eq_infinity_iff (w : Word) :
    classify w = .infinity ↔ floatExp w = 255#8 ∧ floatMant w = 0#23 := by
  unfold classify
  split_ifs <;> simp [*]

theorem classify_eq_nan_iff (w : Word) : classify w = .nan ↔ floatExp w = 255#8 ∧ floatMant w ≠ 0#23 := by
  unfold classify
  split_ifs <;> simp [*]

theorem classify_eq_posZero_iff (w : Word) :
    classify w = .posZero ↔ floatSign w = false ∧ floatExp w = 0#8 ∧ floatMant w = 0#23 := by
  unfold classify
  split_ifs <;> simp [*]

theorem classify_eq_negZero_iff (w : Word) :
    classify w = .negZero ↔ floatSign w = true ∧ floatExp w = 0#8 ∧ floatMant w = 0#23 := by
  unfold classify
  split_ifs <;> simp [*]

theorem classify_eq_subnormal_iff (w : Word) :
    classify w = .subnormal ↔ floatExp w = 0#8 ∧ floatMant w ≠ 0#23 := by
  unfold classify
  split_ifs <;> simp [*]

theorem classify_eq_normal_iff (w : Word) : classify w = .normal ↔ floatExp w ≠ 0#8 ∧ floatExp w ≠ 255#8 := by
  unfold classify
  split_ifs <;> simp [*]

theorem finite_of_floatExp_eq_zero {w : Word} (h : floatExp w = 0#8) : floatExp w ≠ 255#8 := by
  rw [h]
  decide

theorem floatValue_of_zero {w : Word} (hexp : floatExp w = 0#8) (hmant : floatMant w = 0#23) : floatValue w = 0 := by
  simp [floatValue, hexp, hmant]

/-- A subnormal keeps its exact value, below the smallest normal one (R102). -/
theorem absValue_subnormal {w : Word} (hexp : floatExp w = 0#8) (hmant : floatMant w ≠ 0#23) :
    0 < absValue w ∧ absValue w < 2 ^ (-126 : ℤ) := by
  have hunpack : unpack w = some ⟨floatSign w, (floatMant w).toNat, -149⟩ := by
    have hfin := (isFinite_iff w).mpr (finite_of_floatExp_eq_zero hexp)
    simp [unpack, hfin, hexp]
  have hpos : (0 : ℚ) < (floatMant w).toNat := by
    exact_mod_cast Nat.pos_of_ne_zero fun h => hmant (BitVec.eq_of_toNat_eq h)
  have hlt : ((floatMant w).toNat : ℚ) < 2 ^ 23 := by exact_mod_cast (floatMant w).isLt
  rw [absValue_of_unpack hunpack]
  constructor
  · positivity
  · calc ((floatMant w).toNat : ℚ) * 2 ^ (-149 : ℤ) < 2 ^ 23 * 2 ^ (-149 : ℤ) :=
          mul_lt_mul_of_pos_right hlt (by positivity)
      _ = 2 ^ (-126 : ℤ) := by norm_num

/-- The bytes of a value whose magnitude and fraction are 0: the sign flag alone. -/
theorem refEncode_of_zero_fields {w : Word} (hmag : refMagnitude w = 0) (hfrac : refFraction w = 0) :
    refEncode w = ⟨0, 0, if floatValue w ≤ 0 then 0x80 else 0⟩ := by
  rw [refEncode, hmag, hfrac, refSignFlag]
  split <;> rfl

/-- A value below 0.01 has no whole hundredth. -/
theorem zero_fields_of_lt_hundredth {w : Word} (h : absValue w < 1 / 100) : refMagnitude w = 0 ∧ refFraction w = 0 := by
  obtain ⟨hle, -⟩ := refFraction_bounds w
  have hsum : ((100 * ⌊absValue w⌋₊ + refFraction w : ℕ) : ℚ) < 1 := by
    push_cast
    linarith
  have hzero : 100 * ⌊absValue w⌋₊ + refFraction w < 1 := by exact_mod_cast hsum
  constructor
  · rw [refMagnitude]
    omega
  · omega

/-- Of a non-zero value the sign bit decides (R94). -/
theorem floatValue_nonpos_iff_sign {w : Word} (hfin : floatExp w ≠ 255#8) (hpos : 0 < absValue w) :
    floatValue w ≤ 0 ↔ floatSign w = true := by
  obtain ⟨p, hp⟩ := exists_unpack_of_finite hfin
  have hsig : ¬(floatExp w = 0#8 ∧ floatMant w = 0#23) := fun ⟨hexp, hmant⟩ => by
    rw [absValue, floatValue_of_zero hexp hmant, abs_zero] at hpos
    exact lt_irrefl 0 hpos
  rw [← signFlag_iff_floatValue_nonpos hp, signFlag_iff_bits hp, or_iff_left hsig]

/-- Settles O14: magnitude and fraction vanish below 0.01, and the flag is that of a zero or of the sign bit. -/
theorem zerosAndTinyValuesEncodeAsZeroBytes : Obligations.ZerosAndTinyValuesEncodeAsZeroBytes := by
  intro w s hfin
  rw [exec_encNum_of_finite s hfin]
  refine ⟨fun hzero => ?_, absValue_subnormal, fun hpos hsmall => ?_⟩
  · obtain ⟨hmag, hfrac⟩ := zero_fields_of_lt_hundredth (hzero.trans_lt (by norm_num))
    rw [refEncode_of_zero_fields hmag hfrac, if_pos (abs_eq_zero.mp hzero).le]
  · obtain ⟨hmag, hfrac⟩ := zero_fields_of_lt_hundredth hsmall
    rw [refEncode_of_zero_fields hmag hfrac]
    simp only [floatValue_nonpos_iff_sign hfin hpos]

/-- Settles O13: each class by its fields, and the words of a class with fixed fields by the fields of its words. -/
theorem inputClassesAreTreatedAsTabulated : Obligations.InputClassesAreTreatedAsTabulated := by
  intro w s
  refine ⟨?_, ?_, classify_eq_subnormal_iff w, ?_, ?_, classify_eq_nan_iff w, fun hclass => ?_, fun hclass => ?_,
    fun hclass => ?_, fun hclass => ?_⟩
  · rw [classify_eq_posZero_iff, word_eq_iff w 0x00000000]
    rfl
  · rw [classify_eq_negZero_iff, word_eq_iff w 0x80000000]
    rfl
  · rw [classify_eq_normal_iff, ne_eq, ne_eq, BitVec.toNat_eq, BitVec.toNat_eq]
    have := (floatExp w).isLt
    simp only [BitVec.toNat_ofNat]
    omega
  · have hpos : w = 0x7F800000 ↔ floatSign w = false ∧ floatExp w = 255#8 ∧ floatMant w = 0#23 := word_eq_iff w _
    have hneg : w = 0xFF800000 ↔ floatSign w = true ∧ floatExp w = 255#8 ∧ floatMant w = 0#23 := word_eq_iff w _
    rw [classify_eq_infinity_iff, hpos, hneg]
    cases floatSign w <;> simp
  · have hfields : floatExp w = 0#8 ∧ floatMant w = 0#23 := by
      rw [classify_eq_posZero_iff, classify_eq_negZero_iff] at hclass
      exact hclass.elim And.right And.right
    obtain ⟨hexp, hmant⟩ := hfields
    have hzero := floatValue_of_zero hexp hmant
    exact ⟨hzero, refEncode w, exec_encNum_of_finite s (finite_of_floatExp_eq_zero hexp),
      (refEncode_signFlag w).mpr hzero.le⟩
  · obtain ⟨hexp, hmant⟩ := (classify_eq_subnormal_iff w).mp hclass
    obtain ⟨hpos, hlt⟩ := absValue_subnormal hexp hmant
    obtain ⟨hmag, hfrac⟩ := zero_fields_of_lt_hundredth (hlt.trans (by norm_num))
    exact ⟨hpos, hlt, refEncode w, exec_encNum_of_finite s (finite_of_floatExp_eq_zero hexp),
      (refEncode_magnitude w).trans hmag, (refEncode_fraction w).trans hfrac⟩
  · obtain ⟨-, hfin⟩ := (classify_eq_normal_iff w).mp hclass
    exact ⟨refEncode w, exec_encNum_of_finite s hfin⟩
  · have hexp : floatExp w = 255#8 := by
      rw [classify_eq_infinity_iff, classify_eq_nan_iff] at hclass
      exact hclass.elim And.left And.left
    exact ⟨_, exec_encNum_of_nonFinite s hexp, rfl, rfl⟩

theorem sig_lt_of_unpack {w : Word} {p : FloatParts} (h : unpack w = some p) : p.sig < 2 ^ 24 := by
  have := (floatMant w).isLt
  unfold unpack at h
  split at h
  · split at h
    · cases h
      show (floatMant w).toNat < 2 ^ 24
      omega
    · cases h
      show 2 ^ 23 + (floatMant w).toNat < 2 ^ 24
      omega
  · cases h

/-- A significand has 24 bits, so that a value of `2^(23+j)` or more has no bit below `2^j` (R103). -/
theorem absValue_multiple_of_pow {w : Word} (hfin : floatExp w ≠ 255#8) {j : ℕ}
    (h : (2 : ℚ) ^ (23 + j) ≤ absValue w) : ∃ m : ℕ, absValue w = m * 2 ^ j := by
  obtain ⟨p, hp⟩ := exists_unpack_of_finite hfin
  rw [absValue_of_unpack hp] at h ⊢
  have hsig : (p.sig : ℚ) < 2 ^ (24 : ℤ) := by exact_mod_cast sig_lt_of_unpack hp
  have hpow : (2 : ℚ) ^ ((23 : ℤ) + j) < 2 ^ (24 + p.x) := by
    calc (2 : ℚ) ^ ((23 : ℤ) + j) = 2 ^ (23 + j) := by exact_mod_cast rfl
      _ ≤ p.sig * 2 ^ p.x := h
      _ < 2 ^ (24 : ℤ) * 2 ^ p.x := mul_lt_mul_of_pos_right hsig (by positivity)
      _ = 2 ^ (24 + p.x) := (zpow_add₀ two_ne_zero _ _).symm
  have hexp : (23 : ℤ) + j < 24 + p.x := (zpow_lt_zpow_iff_right₀ one_lt_two).mp hpow
  obtain ⟨k, hk⟩ := Int.eq_ofNat_of_zero_le (show 0 ≤ p.x - j by omega)
  refine ⟨p.sig * 2 ^ k, ?_⟩
  rw [show p.x = ((k + j : ℕ) : ℤ) by push_cast; omega, zpow_natCast, pow_add]
  push_cast
  ring

theorem refFraction_of_natCast {w : Word} {n : ℕ} (h : absValue w = n) : refFraction w = 0 := by
  rw [refFraction, h, Nat.floor_natCast, sub_self, zero_mul, Nat.floor_zero]

/-- Settles O15: from `2^23` on the value is an integer, from `2^39` on a multiple of 65536. -/
theorem largeValuesLoseFractionThenMagnitude : Obligations.LargeValuesLoseFractionThenMagnitude := by
  refine ⟨fun w s hfin => ⟨fun j hj => absValue_multiple_of_pow hfin hj, fun h23 => ?_, fun h39 => ?_⟩,
    fun s => exec_encNum_of_quant s (by decide)⟩
  · obtain ⟨m, hm⟩ := absValue_multiple_of_pow (j := 0) hfin h23
    refine ⟨refEncode w, exec_encNum_of_finite s hfin, (refEncode_fraction w).trans ?_⟩
    exact refFraction_of_natCast (n := m) (by rw [hm, pow_zero, mul_one])
  · obtain ⟨m, hm⟩ := absValue_multiple_of_pow (j := 16) hfin h39
    have hnat : absValue w = ((m * 65536 : ℕ) : ℚ) := by
      rw [hm]
      norm_num
    have hmag : refMagnitude w = 0 := by rw [refMagnitude, hnat, Nat.floor_natCast, Nat.mul_mod_left]
    rw [exec_encNum_of_finite s hfin, refEncode_of_zero_fields hmag (refFraction_of_natCast hnat)]

end Sys2Proof.Machine
end

section
/-! The frame of ENCFRAME and TRANSMIT against the rational definition, its groups and its sum (R120 to R127, R155, R158). -/

namespace Sys2Proof.Machine

theorem allFinite_eq_false_iff (v : Vector Word 4) : allFinite v = false ↔ ∃ k : Fin 4, floatExp v[k] = 255#8 := by
  rw [← Bool.not_eq_true, allFinite_iff]
  push Not
  rfl

theorem exec_encFrame_of_nonFinite (id : Byte) {v : Vector Word 4} (s : State)
    (h : ∃ k : Fin 4, floatExp v[k] = 255#8) : exec (.encFrame id v) s =
      .next { s with results := Results.empty, verdict := some (.refused .nonFiniteInput), refusalMark := true } :=
  exec_encFrame_none s ((frameOf_none_iff id v).mpr ((allFinite_eq_false_iff v).mpr h))

theorem exec_transmit_of_nonFinite (id : Byte) {v : Vector Word 4} (s : State)
    (h : ∃ k : Fin 4, floatExp v[k] = 255#8) : exec (.transmit id v) s =
      .next { s with results := Results.empty, verdict := some (.refused .nonFiniteInput), refusalMark := true } :=
  exec_transmit_none s ((frameOf_none_iff id v).mpr ((allFinite_eq_false_iff v).mpr h))

/-- Settles O24: both operations are refused, which writes nothing. -/
theorem oneNonFiniteWordRefusesTheFrame : Obligations.OneNonFiniteWordRefusesTheFrame :=
  fun id _ s k hk => ⟨⟨_, exec_encFrame_of_nonFinite id s ⟨k, hk⟩, rfl, rfl, rfl⟩,
    ⟨_, exec_transmit_of_nonFinite id s ⟨k, hk⟩, rfl, rfl, rfl⟩⟩

/-- Settles O33: a refusal leaves `TX` and clears the ports. -/
theorem refusedTransmitWritesNothing : Obligations.RefusedTransmitWritesNothing :=
  fun id v s h => ⟨_, exec_transmit_of_nonFinite id s ((allFinite_eq_false_iff v).mp h), rfl, rfl⟩

/-- Settles O32: one frame, handed to the port by ENCFRAME and to the transport by TRANSMIT. -/
theorem transmitAppendsTheFrameAsOneEvent : Obligations.TransmitAppendsTheFrameAsOneEvent := by
  refine fun id v s => ⟨fun hfin => ?_, exec_transmit_of_nonFinite id s⟩
  obtain ⟨F, hF⟩ := frameOf_some_of_finite id ((allFinite_iff v).mpr hfin)
  exact ⟨F, by rw [exec_encFrame_some s hF, done_eq], exec_of_writes (.transmit hF) s⟩

/-- The summed bytes of an assembled frame are its body. -/
theorem assemble_take (id : Byte) (E : Vector EncodedNumber 4) :
    (assemble id E).toList.take 13 = (frameBody id E).toList := by
  rw [assemble_toList, List.take_left' (Vector.length_toList)]

/-- Offset 13 holds the sum of offsets 0 to 12 (R123). -/
theorem assemble_checksum_toNat (id : Byte) (E : Vector EncodedNumber 4) :
    (assemble id E)[13].toNat = byteSum ((assemble id E).toList.take 13) % 256 := by
  rw [← assemble_csum, csum_toNat]

/-- Settles O19: the groups are those of the rational definition, and the slot holds the sum. -/
theorem encFrameFillsTheWireTable : Obligations.EncFrameFillsTheWireTable := by
  refine fun id v s => ⟨fun hfin => ?_, exec_encFrame_of_nonFinite id s⟩
  obtain ⟨E, hE, hexec⟩ := exec_encFrame_of_finite id s hfin
  refine ⟨assemble id E, hexec, rfl, fun k => ?_, assemble_checksum_toNat id E⟩
  rw [← eq_refEncode_of_quant (hE k)]
  exact assemble_group id E k

/-- Where a group's EncodedNumber is the same, so are its three bytes (R121). -/
theorem assemble_congr_off_group {id : Byte} {E E' : Vector EncodedNumber 4} {k : Fin 4}
    (h : ∀ j : Fin 4, j ≠ k → E[j] = E'[j]) {i : ℕ} (hi : i < 13)
    (hoff : i < 1 + 3 * k.val ∨ 3 + 3 * k.val < i) : (assemble id E)[i]? = (assemble id E')[i]? := by
  obtain rfl | ⟨j, hj⟩ : i = 0 ∨ ∃ j : Fin 4, i = 1 + 3 * j.val ∨ i = 2 + 3 * j.val ∨ i = 3 + 3 * j.val := by
    obtain rfl | hpos := Nat.eq_zero_or_pos i
    · exact .inl rfl
    · exact .inr ⟨⟨(i - 1) / 3, by omega⟩, by dsimp only; omega⟩
  · rfl
  · obtain ⟨hhigh, hlow, hsignFrac⟩ := assemble_group id E j
    obtain ⟨hhigh', hlow', hsignFrac'⟩ := assemble_group id E' j
    rw [← h j (by rintro rfl; omega)] at hhigh' hlow' hsignFrac'
    obtain rfl | rfl | rfl := hj
    · exact hhigh.trans hhigh'.symm
    · exact hlow.trans hlow'.symm
    · exact hsignFrac.trans hsignFrac'.symm

/-- Settles O23: a frame is a function of its operands, and its groups of one value each. -/
theorem frameDependsOnItsOperandsAlone : Obligations.FrameDependsOnItsOperandsAlone := by
  intro id v v' s s' t t' F F' hexec hexec' hframe hframe'
  have hF := frameOf_of_exec_encFrame hexec hframe
  have hF' := frameOf_of_exec_encFrame hexec' hframe'
  refine ⟨fun hv => ?_, fun k hv i hi hoff => ?_⟩
  · subst hv
    exact Option.some.inj (hF.symm.trans hF')
  · obtain ⟨E, hE, rfl⟩ := frameOf_eq_some hF
    obtain ⟨E', hE', rfl⟩ := frameOf_eq_some hF'
    refine assemble_congr_off_group (fun j hj => ?_) hi hoff
    have hj := (quant_of_quantAll hE j).symm.trans ((congrArg quant (hv j hj)).trans (quant_of_quantAll hE' j))
    exact Option.some.inj hj

/-- An EncodedNumber left on the port by ENCNUM is the quantized word: a refused step leaves none. -/
theorem quant_of_exec_encNum {w : Word} {e : EncodedNumber} {s t : State} (hexec : exec (.encNum w) s = .next t)
    (henc : t.results.enc = some e) : quant w = some e := by
  cases hq : quant w with
  | some e' =>
    rw [exec_encNum_of_quant s hq] at hexec
    cases hexec
    exact henc
  | none =>
    rw [exec_encNum_none s hq, refuse_eq] at hexec
    cases hexec
    cases henc

/-- Settles O25: the slot byte is not summed, so that the host's checksum is the one ENCFRAME computes. -/
theorem frameBuiltByPartsEqualsEncFrame : Obligations.FrameBuiltByPartsEqualsEncFrame := by
  intro id slot v E c s sk tk sc tc hnum hsum hc
  have hquant (k : Fin 4) : quant v[k] = some E[k] := quant_of_exec_encNum (hnum k).1 (hnum k).2
  have hall : quantAll v = some E := (quantAll_eq_some v E).mpr ⟨hquant 0, hquant 1, hquant 2, hquant 3⟩
  have hframe : frameOf id v = some (assemble id E) := by rw [frameOf, hall, Option.map_some]
  have hslot : c = csum (frameBody id E).toList 14 := (csum_of_exec_checksum hsum hc).trans (csum_congr rfl)
  rw [exec_encFrame_some s hframe, done_eq, hslot]
  rfl

/-- Every byte of a group is bounded: byte 2 by its fraction (R66, 90_conflicts.md C11). -/
theorem byteSum_frameBody_le (id : Byte) {E : Vector EncodedNumber 4}
    (h : ∀ k : Fin 4, signFracLegal E[k].signFrac = true) : byteSum (frameBody id E).toList ≤ 3203 := by
  have hgroup (k : Fin 4) : E[k].high.toNat + E[k].low.toNat + E[k].signFrac.toNat ≤ 737 := by
    obtain ⟨-, hlt⟩ := (signFracLegal_iff _).mp (h k)
    have := E[k].high.isLt
    have := E[k].low.isLt
    omega
  have hid := id.isLt
  have hsum : byteSum (frameBody id E).toList = id.toNat +
      (E[(0 : Fin 4)].high.toNat + (E[(0 : Fin 4)].low.toNat + (E[(0 : Fin 4)].signFrac.toNat +
      (E[(1 : Fin 4)].high.toNat + (E[(1 : Fin 4)].low.toNat + (E[(1 : Fin 4)].signFrac.toNat +
      (E[(2 : Fin 4)].high.toNat + (E[(2 : Fin 4)].low.toNat + (E[(2 : Fin 4)].signFrac.toNat +
      (E[(3 : Fin 4)].high.toNat + (E[(3 : Fin 4)].low.toNat + (E[(3 : Fin 4)].signFrac.toNat + 0)))))))))))) := rfl
  have h0 := hgroup 0
  have h1 := hgroup 1
  have h2 := hgroup 2
  have h3 := hgroup 3
  omega

theorem signFracLegal_of_quantAll {v : Vector Word 4} {E : Vector EncodedNumber 4} (h : quantAll v = some E)
    (k : Fin 4) : signFracLegal E[k].signFrac = true := by
  rw [eq_refEncode_of_quant (quant_of_quantAll h k)]
  exact refEncode_signFracLegal v[k]

/-- Settles O26: the bound on the body of a frame; the operands that reach it are evaluated. -/
theorem largestFrameSumIs3203 : Obligations.LargestFrameSumIs3203 := by
  constructor
  · intro id v s t F hexec hframe
    obtain ⟨E, hE, rfl⟩ := frameOf_eq_some (frameOf_of_exec_encFrame hexec hframe)
    rw [assemble_take]
    exact byteSum_frameBody_le id (signFracLegal_of_quantAll hE)
  · intro s
    have hF : frameOf 0xFF #v[0xC77FFFFF, 0xC77FFFFF, 0xC77FFFFF, 0xC77FFFFF] =
        some #v[0xFF, 0xFF, 0xFF, 0xE3, 0xFF, 0xFF, 0xE3, 0xFF, 0xFF, 0xE3, 0xFF, 0xFF, 0xE3, 0x83] := by decide
    exact ⟨_, by rw [exec_encFrame_some s hF, done_eq], by decide, by decide⟩

end Sys2Proof.Machine
end

section
/-! The invariant: what an operation writes is well formed, and a refusal writes nothing (R66, R123, R31, R175). -/

namespace Sys2Proof.Machine

/-- A frame the block builds is well formed (R66, R123). -/
theorem frameLegal_of_frameOf {id : Byte} {v : Vector Word 4} {F : Frame} (h : frameOf id v = some F) :
    frameLegal F = true := by
  obtain ⟨E, hE, rfl⟩ := frameOf_eq_some h
  have hlegal := signFracLegal_of_quantAll hE
  have hsum := assemble_checksum_toNat id E
  simp only [frameLegal, Bool.and_eq_true, beq_iff_eq]
  exact ⟨⟨⟨⟨hsum, hlegal 0⟩, hlegal 1⟩, hlegal 2⟩, hlegal 3⟩

variable {i : Instr} {r : Results} {ev : List Frame}

theorem Writes.events_legal (h : Writes i r ev) : ∀ F ∈ ev, frameLegal F = true := by
  cases h with
  | transmit h => exact fun F hF => List.mem_singleton.mp hF ▸ frameLegal_of_frameOf h
  | encNum h | encFrame h | checksum h => exact fun F hF => absurd hF List.not_mem_nil

theorem Writes.enc_legal (h : Writes i r ev) {e : EncodedNumber} (he : r.enc = some e) :
    signFracLegal e.signFrac = true := by
  cases h with
  | encNum h =>
    cases he
    rw [eq_refEncode_of_quant h]
    exact refEncode_signFracLegal _
  | encFrame h | checksum h | transmit h => cases he

theorem Writes.frame_legal (h : Writes i r ev) {F : Frame} (hF : r.frame = some F) : frameLegal F = true := by
  cases h with
  | encFrame h =>
    cases hF
    exact frameLegal_of_frameOf h
  | encNum h | checksum h | transmit h => cases hF

/-- A done operation leaves the invariant: only the history it found has to be well formed. -/
theorem inv_of_writes (h : Writes i r ev) {s : State} (hs : s.Inv) :
    State.Inv { s with results := r, verdict := some .done, txHistory := s.txHistory ++ ev } where
  history F hF := (List.mem_append.mp hF).elim (hs.history F) (h.events_legal F)
  enc _ he := h.enc_legal he
  frame _ hF := h.frame_legal hF
  tx F hF := by
    cases h.events_of_tx hF
    exact List.getLast?_concat
  notStarted hv := nomatch hv
  done _ := h.count_eq_one
  refused _ hv := nomatch hv

theorem inv_of_refused (why : RefusalReason) {s : State} (hs : s.Inv) :
    State.Inv { s with results := Results.empty, verdict := some (.refused why), refusalMark := true } where
  history := hs.history
  enc _ he := nomatch he
  frame _ hF := nomatch hF
  tx _ hF := nomatch hF
  notStarted hv := nomatch hv
  done hv := nomatch hv
  refused _ _ := ⟨rfl, rfl⟩

/-- The pending requests take no part in the invariant. -/
theorem inv_with_requests {s : State} (hs : s.Inv) (rest : List Request) : State.Inv { s with requests := rest } :=
  ⟨hs.history, hs.enc, hs.frame, hs.tx, hs.notStarted, hs.done, hs.refused⟩

theorem exec_keeps_inv (i : Instr) {s t : State} (hs : s.Inv) (h : exec i s = .next t) : t.Inv := by
  obtain ⟨-, r, ev, hw⟩ | ⟨-, href⟩ := writes_or_refused i
  · cases (exec_of_writes hw s).symm.trans h
    exact inv_of_writes hw hs
  · cases (href s).symm.trans h
    exact inv_of_refused _ hs

/-- Settles O40: the idle step keeps the state, and every operation the invariant. -/
theorem everyStepKeepsTheInvariant : Obligations.EveryStepKeepsTheInvariant := by
  intro s t hs hstep
  obtain ⟨-, hidle⟩ | ⟨r, rest, -, hexec⟩ := step_cases s
  · cases hidle.symm.trans hstep
    exact hs
  · exact exec_keeps_inv (decode r) (inv_with_requests hs rest) (hexec.symm.trans hstep)

/-- Settles O41: nothing is sent, no port holds a value and no verdict stands. -/
theorem resetMeetsTheInvariant : Obligations.ResetMeetsTheInvariant where
  history _ hF := absurd hF List.not_mem_nil
  enc _ he := nomatch he
  frame _ hF := nomatch hF
  tx _ hF := nomatch hF
  notStarted _ := rfl
  done hv := nomatch hv
  refused _ hv := nomatch hv

end Sys2Proof.Machine
end
